-- ==== Sys2Proof/Word.lean ====
section
/-! DEFINITION. The bit vectors of the FE/DAC block: the widths of its state elements (R20) and of its
encodings (R62, R63). `Sample`, whose width is a parameter of R6, stands in `Config`. -/

namespace Sys2Proof

/-- A received byte, and one byte of the Reassembly Buffer (R11, R25). -/
abbrev Byte := BitVec 8

/-- The fill counter `COUNT` (R24): 0, 1 and 2 are legal, 3 is reserved (R69). -/
abbrev Count := BitVec 2

/-- The kind field, bits 9:8 of an event word and bits 11:10 of a decode key (R62, R63). -/
abbrev Kind := BitVec 2

/-- The 10-bit event word of R62: `kind[9:8]`, `data[7:0]`. -/
abbrev EventWord := BitVec 10

/-- The 12-bit decode key of R63: `kind[11:10]`, `COUNT[9:8]`, `data[7:0]`. -/
abbrev Key := BitVec 12

end Sys2Proof
end

