-- ==== Sys2Proof/Config.lean ====
section
/-! DEFINITION. The implementation parameters of R6, each a named constant; the parameters an
implementation may set, gathered in `Params`; and the open parameters and free draws, which have no
body, so that no proof can lean on a value of theirs. -/

namespace Sys2Proof

namespace Config

/-- `FRAME_DATA_BYTES` of R6. UNVERIFIED literal (R3, log entry 16). -/
def frameDataBytes : Nat := 2

/-- `SENTINEL` of R6: the terminator byte. UNVERIFIED literal (R3, log entry 16). -/
def sentinel : Byte := 0x00

/-- `SAMPLE_WIDTH` of R6: the width of the type `Sample`, an `abbrev` so that it computes in types.
UNVERIFIED literal (R3, log entry 16). -/
abbrev sampleWidth : Nat := 16

/-- `SCALE` of R6: the divisor from sample to voltage, 2^11 (R102). UNVERIFIED literal (log entry 16). -/
def scale : Nat := 2048

/-- `COUNT` of an empty Reassembly Buffer (R24). -/
def emptyCount : Count := 0

/-- `COUNT` after the first data byte (R81). -/
def oneByteCount : Count := 1

/-- `COUNT` of a full Reassembly Buffer: `FRAME_DATA_BYTES` (R24, R82). -/
def fullCount : Count := BitVec.ofNat 2 frameDataBytes

/-- The reserved `COUNT` encoding 0b11 (R69). -/
def reservedCount : Count := 3

/-- `P_DAC_SAT` of R6 and R104: from the written value to the output the peripheral shows. OPEN: it has
no body, so nothing (identity, clamp, monotony) can be assumed of it. DESIGN CHOICE: the observed
output is measured by a rational (log entry 11). -/
opaque dacSat : Rat → Rat

/-- `P_TICK_PHASE` of R6, in seconds: from reset release to the first tick. OPEN, timing only. -/
opaque tickPhase : Rat

/-- The n-th draw of the low byte of a torn read (R45): true draws the new byte, false the old one.
A free value, under no law (R12). DESIGN CHOICE of form: log entry 7. -/
opaque tornLowIsNew : Nat → Bool

/-- The n-th draw of the high byte of a torn read (R45), a free value like `tornLowIsNew`. -/
opaque tornHighIsNew : Nat → Bool

end Config

/-- The two's-complement word of `SAMPLE`, and the DAC code: `SAMPLE_WIDTH` bits (R6, R26, R27, R66). -/
abbrev Sample := BitVec Config.sampleWidth

/-- The parity of a serial character format; 8N1 has none (R6, R159). -/
inductive Parity where
  | none
  | even
  | odd
deriving DecidableEq, Repr

/-- `P_UART_FRAMING` of R6: the upstream UART's character format. Timing only. -/
structure UartFraming where
  dataBits : Nat
  parity : Parity
  stopBits : Nat
deriving DecidableEq, Repr

/-- The parameters of R6 that an implementation sets before reset is released and no event changes
(R28 and R153 of the timing ones). They are carried by the state, so that every statement holds for every setting
(DESIGN CHOICE, log entry 9). -/
structure Params where
  /-- `P_SAMPLE_UPDATE_ATOMIC` (R6, R45). -/
  sampleUpdateAtomic : Bool
  /-- `P_SAMPLE_RATE_HZ` (R6, R28, R128). -/
  sampleRateHz : Rat
  /-- `P_BAUD` (R6, R28); timing only. -/
  baud : Nat
  /-- `P_UART_FRAMING` (R6); timing only. -/
  uartFraming : UartFraming
deriving DecidableEq, Repr

/-- 8N1, "assumed from context" (R6, R130). UNVERIFIED: log entry 17. -/
def UartFraming.eightN1 : UartFraming :=
  { dataBits := 8, parity := .none, stopBits := 1 }

/-- The default values of R6. -/
def Params.default : Params :=
  { sampleUpdateAtomic := true, sampleRateHz := 360, baud := 115200, uartFraming := .eightN1 }

end Sys2Proof
end

