-- ==== Sys2Proof/Syntax.lean ====
section
/-! DEFINITION. The input events of R7, and the operations of the operation map (R64), one constructor
of `Instr` per row of spec/opcode_table.json. -/

namespace Sys2Proof

/-- The four input events of the block (R7). -/
inductive Event where
  /-- `RX(d)`: the arrival of one received byte. -/
  | rx (d : Byte)
  /-- `TICK`: one firing of the periodic timer. -/
  | tick
  /-- `RESET`: the reset input. -/
  | reset
  /-- `RXT(d)`: a byte and a tick at the same instant. -/
  | rxt (d : Byte)
deriving DecidableEq, Repr

/-- The operations of the operation map (R64), in the table's order. The `COUNT` bits of the key select
the constructor; they are no operand of it. The ignored data bits of RESET and TICK are none either
(R68). -/
inductive Instr where
  /-- RESET (R150). -/
  | reset
  /-- TICK (R100). -/
  | tick
  /-- RXT: the byte and the tick coincide (R124). -/
  | rxt (d : Byte)
  /-- RX_TERM: its byte is the sentinel (R83). -/
  | rxTerm
  /-- RX_APPEND0 (R81). -/
  | rxAppend0 (d : Byte)
  /-- RX_APPEND1 (R82). -/
  | rxAppend1 (d : Byte)
  /-- RX_DROP: its byte is not the sentinel (R84). -/
  | rxDrop (d : Byte)
deriving DecidableEq, Repr

end Sys2Proof
end

