-- ==== Sys2Proof/WellFormed.lean ====
section
/-! DEFINITION. When an operation is well formed (its operands), and at which `COUNT` the operation map
selects it (the condition column of R64). -/

namespace Sys2Proof

/-- The operand condition of a row of R64: RX_DROP's byte is not the sentinel. Every other operand may
take every value (R71). -/
def Instr.wf : Instr → Bool
  | .reset => true
  | .tick => true
  | .rxt _ => true
  | .rxTerm => true
  | .rxAppend0 _ => true
  | .rxAppend1 _ => true
  | .rxDrop d => d != Config.sentinel

/-- The `COUNT` condition of a row of R64: RESET and TICK ignore `COUNT`, RXT needs a legal one. -/
def Instr.enabledAt : Instr → Count → Bool
  | .reset, _ => true
  | .tick, _ => true
  | .rxt _, c => c != Config.reservedCount
  | .rxTerm, c => c == Config.fullCount
  | .rxAppend0 _, c => c == Config.emptyCount
  | .rxAppend1 _, c => c == Config.oneByteCount
  | .rxDrop _, c => c == Config.fullCount

end Sys2Proof
end

