-- ==== Sys2Proof/Decode.lean ====
section
/-! DEFINITION. The event word (R62), the decode key (R63), the operation map (R64) as a table of rows
matched in order, the decoder over it, total on any bits, and after it the encoder. -/

namespace Sys2Proof

/-- Kind 0b00 of R62. -/
def kindRx : Kind := 0b00
/-- Kind 0b01 of R62. -/
def kindTick : Kind := 0b01
/-- Kind 0b10 of R62. -/
def kindReset : Kind := 0b10
/-- Kind 0b11 of R62. -/
def kindRxt : Kind := 0b11

/-- The event word `{kind, data}` (R62). -/
def mkWord (k : Kind) (d : Byte) : EventWord := k ++ d

/-- `kind[9:8]` of an event word (R62). -/
def wordKind (w : EventWord) : Kind := w.extractLsb' 8 2

/-- `data[7:0]` of an event word (R62). -/
def wordData (w : EventWord) : Byte := w.extractLsb' 0 8

/-- The decode key `{kind, COUNT, data}` (R63). -/
def mkKey (k : Kind) (c : Count) (d : Byte) : Key := k ++ c ++ d

/-- `key[11:10]` (R63). -/
def keyKind (k : Key) : Kind := k.extractLsb' 10 2

/-- `key[9:8]` (R63). -/
def keyCount (k : Key) : Count := k.extractLsb' 8 2

/-- `key[7:0]` (R63). -/
def keyData (k : Key) : Byte := k.extractLsb' 0 8

/-- The decode key of an event word at the current `COUNT` (R63). -/
def keyOf (w : EventWord) (c : Count) : Key := mkKey (wordKind w) c (wordData w)

/-- The canonical event word of an event (R62); the ignored data bits are written zero (R68, R73). -/
def eventWord : Event → EventWord
  | .rx d => mkWord kindRx d
  | .tick => mkWord kindTick 0
  | .reset => mkWord kindReset 0
  | .rxt d => mkWord kindRxt d

/-- The event an event word stands for. It is total: every kind is defined (R67), and the data bits of
TICK and RESET are ignored (R68). -/
def decodeEvent (w : EventWord) : Event :=
  if wordKind w = kindRx then .rx (wordData w)
  else if wordKind w = kindTick then .tick
  else if wordKind w = kindReset then .reset
  else .rxt (wordData w)

/-- The reasons of `fault Unreachable(reason)` (R12, R70). -/
inductive Unreachable where
  /-- An RX or RXT event met `COUNT` = 3 (R70). -/
  | count3
deriving DecidableEq, Repr

/-- Why a word of the opcode table's numbering is rejected. -/
inductive DecodeError where
  /-- A 12-bit key that row 8 of R64 rejects. -/
  | unreachable (reason : Unreachable)
  /-- A bit above bit 11 is set: the word is no decode key (DESIGN CHOICE, log entry 3). -/
  | notAKey
deriving DecidableEq, Repr

/-- The operation column of R64, operands left out. -/
inductive Op where
  | reset
  | tick
  | rxt
  | rxTerm
  | rxAppend0
  | rxAppend1
  | rxDrop
deriving DecidableEq, Repr

/-- One row of the operation map (R64): the key's bits under `mask` are `value`, and, where
`needsLegalCount` says so, its `COUNT` bits are not 0b11. -/
structure Row where
  op : Op
  mask : Key
  value : Key
  needsLegalCount : Bool
deriving DecidableEq, Repr

/-- Rows 1 to 7 of R64, in the order they are matched. -/
def rows : List Row :=
  [ { op := .reset,     mask := 0xC00, value := mkKey kindReset 0 0, needsLegalCount := false },
    { op := .tick,      mask := 0xC00, value := mkKey kindTick 0 0, needsLegalCount := false },
    { op := .rxt,       mask := 0xC00, value := mkKey kindRxt 0 0, needsLegalCount := true },
    { op := .rxTerm,    mask := 0xFFF, value := mkKey kindRx Config.fullCount Config.sentinel,
      needsLegalCount := false },
    { op := .rxAppend0, mask := 0xF00, value := mkKey kindRx Config.emptyCount 0,
      needsLegalCount := false },
    { op := .rxAppend1, mask := 0xF00, value := mkKey kindRx Config.oneByteCount 0,
      needsLegalCount := false },
    { op := .rxDrop,    mask := 0xF00, value := mkKey kindRx Config.fullCount 0,
      needsLegalCount := false } ]

/-- Whether a key matches a row's pattern and condition. -/
def Row.accepts (r : Row) (k : Key) : Bool :=
  (k &&& r.mask == r.value) && (!r.needsLegalCount || keyCount k != Config.reservedCount)

/-- The operation with its operand, the key's data bits (R63). -/
def Op.instr : Op → Byte → Instr
  | .reset, _ => .reset
  | .tick, _ => .tick
  | .rxt, d => .rxt d
  | .rxTerm, _ => .rxTerm
  | .rxAppend0, d => .rxAppend0 d
  | .rxAppend1, d => .rxAppend1 d
  | .rxDrop, d => .rxDrop d

/-- The operation a key selects: the first row of R64 that accepts it. A key that no row accepts is one
of row 8, which R70 rejects. -/
def decodeKey (k : Key) : Except Unreachable Instr :=
  match rows.find? (fun r => r.accepts k) with
  | some r => .ok (r.op.instr (keyData k))
  | none => .error .count3

/-- The decoder over any bits, numbered as spec/opcode_table.json numbers them: the low 12 bits are the
key, and any higher bit is rejected. -/
def decodeBits (nbits w : Nat) : Except DecodeError Instr :=
  if w % 2 ^ nbits < 2 ^ 12 then
    match decodeKey (BitVec.ofNat 12 (w % 2 ^ nbits)) with
    | .ok i => .ok i
    | .error r => .error (.unreachable r)
  else .error .notAKey

/-- The instruction the decoder reads from an instruction whose bits are `w`; none where it rejects. -/
def decodeTableWord (nbits w : Nat) : Option Instr :=
  match decodeBits nbits w with
  | .ok i => some i
  | .error _ => none

/-- The input event whose operation this is: the `event_word` column of the table. -/
def Instr.event : Instr → Event
  | .reset => .reset
  | .tick => .tick
  | .rxt d => .rxt d
  | .rxTerm => .rx Config.sentinel
  | .rxAppend0 d => .rx d
  | .rxAppend1 d => .rx d
  | .rxDrop d => .rx d

/-- The event word of an operation (the `event_word` column of the table). -/
def encodeEvent (i : Instr) : EventWord := eventWord i.event

/-- The encoder: the decode key of a well-formed operation at a `COUNT` where it is enabled (R63). -/
def encode (i : Instr) (c : Count) : Key := keyOf (encodeEvent i) c

end Sys2Proof
end

