-- ==== Sys2Proof/Machine/State.lean ====
section
/-! DEFINITION. The state of the FE/DAC block (R20), its observation log (R9), the model's own fields,
the reasons a step can stop, and the state after RESET (R150). -/

namespace Sys2Proof.Machine

/-- The state. The block has no memory, no program counter, no flag and no mode (R20 to R23, R40, R129);
`count` to `dacOut` are all of R20's table. -/
structure State where
  /-- `COUNT`, the fill counter (R24). -/
  count : Count
  /-- `BUF[0]`, the low byte of the sample being assembled (R25). -/
  buf0 : Byte
  /-- `BUF[1]`, the high byte (R25). -/
  buf1 : Byte
  /-- `SAMPLE`, the shared sample register (R26). -/
  sample : Sample
  /-- `DAC_OUT`, the last code written to the peripheral (R27). -/
  dacOut : Sample
  /-- The DAC write log (R9), oldest entry first: observation bookkeeping, no hardware state (R20). -/
  log : List Sample
  /-- The MODEL's own field: the event words the environment has still to deliver, in order (R7, R8, R140;
  log entry 1). -/
  script : List EventWord
  /-- The MODEL's own field: how many torn reads have been drawn; it numbers the free draws of R45
  (log entry 7). -/
  draws : Nat
  /-- The parameters of R6 fixed before reset is released; no event changes them (R28 and R153 of
  the timing ones; log entry 9). -/
  params : Params
deriving DecidableEq, Repr

/-- The reasons a step stops with a fault. -/
inductive Fault where
  /-- `fault Unreachable(reason)` (R12): raised when an RX or RXT event meets the reserved `COUNT` = 3 (R70),
  by decoding and by RXT's own selection. Safe: the spec itself makes the model stop there, and no state
  reachable from RESET has that `COUNT` (R69). -/
  | unreachable (reason : Unreachable)
deriving DecidableEq, Repr

/-- The reasons a step is refused. The block refuses nothing (R140), and no arm of `exec` does. -/
inductive Refusal where
  /-- The instruction has no meaning in this model yet: no arm of `exec` raises it. Safe. -/
  | notModelled (mnemonic : String)
deriving DecidableEq, Repr

/-- One outcome of the machine. -/
abbrev Result := Host.Outcome State Fault Refusal

/-- The machine right after RESET (R32, R150): an empty log, no event delivered yet, and the default
parameters of R6. The first value of `draws` is the model's (DESIGN CHOICE, log entry 8). -/
def State.reset : State :=
  { count := Config.emptyCount
    buf0 := 0x00
    buf1 := 0x00
    sample := 0x0000
    dacOut := 0x0000
    log := []
    script := []
    draws := 0
    params := .default }

end Sys2Proof.Machine
end

