-- ==== Sys2Proof/Machine/Operands.lean ====
section
/-! DEFINITION. What the operations take their operands from: the framer operation a byte selects (R80),
the assembly of a sample (R65), and the value a tick reads when it meets an update of `SAMPLE` (R45). -/

namespace Sys2Proof.Machine

/-- The four operations of the framer (R80). -/
inductive RxOp where
  | append0
  | append1
  | term
  | drop
deriving DecidableEq, Repr

/-- The framer operation selected by a byte and `COUNT`, in the order of R80; none at `COUNT` = 3. -/
def selectRx (d : Byte) (c : Count) : Option RxOp :=
  if d = Config.sentinel ∧ c = Config.fullCount then some .term
  else if c < Config.fullCount then
    if c = Config.emptyCount then some .append0 else some .append1
  else if c = Config.fullCount then some .drop
  else none

/-- Sample assembly, little-endian: `{BUF[1], BUF[0]}` (R41, R65). -/
def assemble (b1 b0 : Byte) : Sample := b1 ++ b0

/-- The low byte of a sample, `v[7:0]` (R41, R60). -/
def lowByte (v : Sample) : Byte := v.extractLsb' 0 8

/-- The high byte of a sample, `v[15:8]` (R41, R60). -/
def highByte (v : Sample) : Byte := v.extractLsb' 8 8

/-- The mixture of an old and a new sample in which each byte is the new one where its draw is true
(R45). -/
def tornMix (lowIsNew highIsNew : Bool) (old new : Sample) : Sample :=
  assemble (if highIsNew then highByte new else highByte old)
    (if lowIsNew then lowByte new else lowByte old)

end Sys2Proof.Machine
end

