-- ==== Sys2Proof/Machine/Ops.lean ====
section
/-! DEFINITION. The named operations over the state: each is the pseudocode of one rule, and the
meanings are built from them. The block raises no exception (R120, R126, R127), so there is no
operation that takes one or returns from one. -/

namespace Sys2Proof.Machine

/-- `BUF[0] <- d; COUNT <- 1` (R81). -/
def appendFirst (d : Byte) (s : State) : State :=
  { s with buf0 := d, count := Config.oneByteCount }

/-- `BUF[1] <- d; COUNT <- 2` (R82). -/
def appendSecond (d : Byte) (s : State) : State :=
  { s with buf1 := d, count := Config.fullCount }

/-- `SAMPLE <- {BUF[1], BUF[0]}; COUNT <- 0` (R83). -/
def publish (s : State) : State :=
  { s with sample := assemble s.buf1 s.buf0, count := Config.emptyCount }

/-- The byte is consumed and lost (R84). -/
def dropByte (s : State) : State := s

/-- `DAC_OUT <- c; emit DacWrite(c)` (R12, R100, R101). -/
def dacWrite (c : Sample) (s : State) : State :=
  { s with dacOut := c, log := s.log ++ [c] }

/-- `perform op` of R124: the RX part of an event. -/
def performRx (op : RxOp) (d : Byte) (s : State) : State :=
  match op with
  | .append0 => appendFirst d s
  | .append1 => appendSecond d s
  | .term => publish s
  | .drop => dropByte s

/-- Whether a tick that coincides with this framer operation reads a torn value (R45, R124). -/
def tears (op : RxOp) (s : State) : Bool :=
  op == .term && !s.params.sampleUpdateAtomic

/-- The code a tick reads when it coincides with a framer operation: `SAMPLE` before the operation, or,
where the read is torn, a draw from the bytes of the old and the new value (R124). -/
def coincidentCode (op : RxOp) (s : State) : Sample :=
  if tears op s then
    tornMix (Config.tornLowIsNew s.draws) (Config.tornHighIsNew s.draws) s.sample
      (assemble s.buf1 s.buf0)
  else s.sample

/-- The next draw is a fresh one where this read was torn (log entry 7). -/
def countDraw (op : RxOp) (s : State) : State :=
  { s with draws := if tears op s then s.draws + 1 else s.draws }

/-- The writes of RESET (R150). The log keeps its entries, and RESET is no DAC write event. -/
def resetBlock (s : State) : State :=
  { s with
    count := Config.emptyCount
    buf0 := 0x00
    buf1 := 0x00
    sample := 0x0000
    dacOut := 0x0000 }

end Sys2Proof.Machine
end

