-- ==== Sys2Proof/Machine/Coincidence.lean ====
section
/-! DEFINITION. The meaning of RXT (R124): a byte and a tick at the same instant. -/

namespace Sys2Proof.Machine

/-- RXT: the TICK part writes the old `SAMPLE` (or the torn draw), then the RX part is performed. At
`COUNT` = 3 it faults (R70, R124). -/
def execRxt (d : Byte) (s : State) : Result :=
  match selectRx d s.count with
  | some op => .next (performRx op d (dacWrite (coincidentCode op s) (countDraw op s)))
  | none => .fault (.unreachable .count3)

end Sys2Proof.Machine
end

