-- ==== Sys2Proof/Machine/DacDriver.lean ====
section
/-! DEFINITION. The meaning of TICK (R100): one DAC write of `SAMPLE`, unclamped (R103). -/

namespace Sys2Proof.Machine

/-- TICK: `c <- SAMPLE; DAC_OUT <- c; emit DacWrite(c)` (R100). -/
def execTick (s : State) : Result := .next (dacWrite s.sample s)

end Sys2Proof.Machine
end

