-- ==== Sys2Proof/Machine/Framer.lean ====
section
/-! DEFINITION. The meanings of the framer's operations (R81 to R84). The operation map has selected
the operation by `COUNT` and the byte (R64, R80); a meaning does not test them again (DEDUCED, log
entry 6). -/

namespace Sys2Proof.Machine

/-- RX_APPEND0 (R81). -/
def execRxAppend0 (d : Byte) (s : State) : Result := .next (appendFirst d s)

/-- RX_APPEND1 (R82). -/
def execRxAppend1 (d : Byte) (s : State) : Result := .next (appendSecond d s)

/-- RX_TERM (R83). -/
def execRxTerm (s : State) : Result := .next (publish s)

/-- RX_DROP (R84): no state changes, whatever the byte. -/
def execRxDrop (_d : Byte) (s : State) : Result := .next (dropByte s)

end Sys2Proof.Machine
end

