-- ==== Sys2Proof/Machine/ResetInput.lean ====
section
/-! DEFINITION. The meaning of RESET (R150). The restart of the timer has no effect in a model without
time (R128, R159; log entry 13). -/

namespace Sys2Proof.Machine

/-- RESET (R150). -/
def execReset (s : State) : Result := .next (resetBlock s)

end Sys2Proof.Machine
end

