-- ==== Sys2Proof/Machine/Dispatch.lean ====
section
/-! DEFINITION. exec: one arm per operation of the operation map (R64), in the table's order. -/

namespace Sys2Proof.Machine

def exec (i : Instr) (s : State) : Host.Outcome State Fault Refusal :=
  match i with
  | .reset => Sys2Proof.Machine.execReset s
  | .tick => Sys2Proof.Machine.execTick s
  | .rxt d => Sys2Proof.Machine.execRxt d s
  | .rxTerm => Sys2Proof.Machine.execRxTerm s
  | .rxAppend0 d => Sys2Proof.Machine.execRxAppend0 d s
  | .rxAppend1 d => Sys2Proof.Machine.execRxAppend1 d s
  | .rxDrop d => Sys2Proof.Machine.execRxDrop d s

end Sys2Proof.Machine
end

