-- ==== Sys2Proof/Machine/Delivery.lean ====
section
/-! DEFINITION. The delivery of events: how an event word and the current `COUNT` select an operation
(R63), the one atomic step an event is (R7, R8), a run of events in order (R9), waiting (R92, R134), and
placing an event where the next step takes it. -/

namespace Sys2Proof.Machine

/-- The decode key of an event word in the state before the event (R63). -/
def fetchKey (w : EventWord) (s : State) : Key := keyOf w s.count

/-- One event (R7, R8): the operation its key selects is performed; a key with `COUNT` = 3 in an RX or RXT
event faults (R70). -/
def perform (w : EventWord) (s : State) : Result :=
  match decodeKey (fetchKey w s) with
  | .ok i => exec i s
  | .error r => .fault (.unreachable r)

/-- A run (R9): the events in order, stopping at the first fault or refusal. -/
def runWords : List EventWord → State → Result
  | [], s => .next s
  | w :: ws, s =>
    match perform w s with
    | .next t => runWords ws t
    | .fault r => .fault r
    | .refused r => .refused r

/-- No event: the framer waits and changes nothing, and the DAC driver is idle (R92, R134; DEDUCED, log
entry 2). -/
def wait (s : State) : Result := .next s

/-- One step: the next event of the script is delivered, or, where the environment has none, the block
waits (log entries 1 and 2). -/
def deliver (s : State) : Result :=
  match s.script with
  | [] => wait s
  | w :: ws => perform w { s with script := ws }

/-- Whether an event of this kind reads `COUNT` when it is decoded (R63). -/
def readsCount (k : Kind) : Bool := k == kindRx || k == kindRxt

/-- The state in which the next event has the decode key `k`: its event word comes first in the script, and
`COUNT` is the key's where the event reads it (log entry 4). -/
def placeKey (k : Key) (s : State) : State :=
  { s with
    script := mkWord (keyKind k) (keyData k) :: s.script
    count := if readsCount (keyKind k) then keyCount k else s.count }

end Sys2Proof.Machine
end

