-- ==== Sys2Proof/Machine/Step.lean ====
section
/-! DEFINITION. The machine's step, and the placing of one instruction of the opcode table. -/

namespace Sys2Proof.Machine

/-- One step of the machine (R7, R8): see `deliver`. -/
def step (s : State) : Host.Outcome State Fault Refusal := deliver s

/-- The state whose next step runs the operation with decode key `w`: see `placeKey`. -/
def State.withFetchWord (s : State) (nbits w : Nat) : State :=
  placeKey (BitVec.ofNat 12 (w % 2 ^ nbits)) s

end Sys2Proof.Machine
end

