-- ==== Sys2Proof/Machine/Peripheral.lean ====
section
/-! DEFINITION. What a DAC code means (R66, R102), and what the analog output peripheral outside the block
shows (R104, R131). -/

namespace Sys2Proof.Machine

/-- The voltage a DAC code stands for, `signed(code) / 2048`, an exact rational (R66, R102). -/
def dacValue (c : Sample) : Rat := (c.toInt : Rat) / (Config.scale : Rat)

/-- The code the peripheral holds: that of the last DAC write event (R101, R131); before any, `DAC_OUT`
(R27, spec/93 item 10). DEDUCED for a RESET after a write: log entry 12. -/
def heldCode (s : State) : Sample := s.log.getLast?.getD s.dacOut

/-- The output the peripheral shows, `P_DAC_SAT` of the value it holds (R101, R104, R131). -/
def analogOutput (s : State) : Rat := Config.dacSat (dacValue (heldCode s))

/-- The rational is the value of a normal or zero binary32 number: a significand of at most 24 bits, and an
exponent in the normal range. PRESUMED: R105 takes the format from general knowledge (log entry 17). -/
def IsBinary32 (q : Rat) : Prop :=
  ∃ m e : Int, m.natAbs < 2 ^ 24 ∧ -126 ≤ e ∧ e ≤ 104 ∧ q = (m : Rat) * (2 : Rat) ^ e

end Sys2Proof.Machine
end

