-- ==== Sys2Proof/Machine/Ports.lean ====
section
/-! DEFINITION. An RTL realisation's view of one clock edge: the inputs that can coincide, their priority
(R125), and the outputs after the edge. The ports are decision D2 of spec/92, informative (log entry 18). -/

namespace Sys2Proof.Machine

/-- The inputs sampled at one rising edge of the clock (D2). -/
structure PortInputs where
  rst : Bool
  rxValid : Bool
  rxData : Byte
  tick : Bool
deriving DecidableEq, Repr

/-- The event of one edge (R125, D2): RESET dominates, a byte and a tick are one RXT, and no input is no
event. -/
def arbitrate (p : PortInputs) : Option EventWord :=
  if p.rst then some (eventWord .reset)
  else if p.rxValid && p.tick then some (eventWord (.rxt p.rxData))
  else if p.rxValid then some (eventWord (.rx p.rxData))
  else if p.tick then some (eventWord .tick)
  else none

/-- What one edge does to the state (R125, D2). -/
def clockEdge (p : PortInputs) (s : State) : Result :=
  match arbitrate p with
  | some w => perform w s
  | none => wait s

/-- The outputs in the cycle after an edge (D2). -/
structure PortOutputs where
  dacWr : Bool
  dacData : Sample
  count : Count
  sample : Sample
deriving DecidableEq, Repr

/-- The outputs in the cycle after the edge with inputs `p` that led to the state `t`: the write strobe is
high after a TICK or RXT (D2). -/
def portOutputs (p : PortInputs) (t : State) : PortOutputs :=
  { dacWr := !p.rst && p.tick
    dacData := t.dacOut
    count := t.count
    sample := t.sample }

end Sys2Proof.Machine
end

