-- ==== Sys2Proof/Machine/Script.lean ====
section
/-! DEFINITION. The lines of an event script (R73) and its pseudo-events (R74), their expansions into event
words, and the text of a line. -/

namespace Sys2Proof.Machine

/-- One line of an event script (R73) or one pseudo-event (R74). -/
inductive ScriptLine where
  | reset
  | rx (d : Byte)
  | tick
  | rxt (d : Byte)
  /-- `FRAME v`. -/
  | frame (v : Int)
  /-- `RXS b0, b1, …, bn`. -/
  | rxs (bs : List Byte)
  /-- `TICKS n`. -/
  | ticks (n : Nat)
deriving DecidableEq, Repr

/-- The domain of a line: `FRAME v` needs `v` in [-32768, 32767], and `RXS` at least one byte (R74). -/
def ScriptLine.wf : ScriptLine → Bool
  | .reset => true
  | .rx _ => true
  | .tick => true
  | .rxt _ => true
  | .frame v => decide (-32768 ≤ v ∧ v ≤ 32767)
  | .rxs bs => !bs.isEmpty
  | .ticks _ => true

/-- `v mod 65536` as a word of `SAMPLE_WIDTH` bits (R74). -/
def sampleOfInt (v : Int) : Sample := BitVec.ofInt Config.sampleWidth v

/-- `RXS b0, …, bn`: one RX event a byte (R74). -/
def rxsWords (bs : List Byte) : List EventWord := bs.map (fun d => eventWord (.rx d))

/-- `FRAME v`: the low byte, the high byte and the sentinel (R60, R74). -/
def frameWords (v : Int) : List EventWord :=
  rxsWords [lowByte (sampleOfInt v), highByte (sampleOfInt v), Config.sentinel]

/-- `TICKS n`: n ticks (R74). -/
def ticksWords (n : Nat) : List EventWord := List.replicate n (eventWord .tick)

/-- The event words of a line (R73, R74). -/
def ScriptLine.words : ScriptLine → List EventWord
  | .reset => [eventWord .reset]
  | .rx d => [eventWord (.rx d)]
  | .tick => [eventWord .tick]
  | .rxt d => [eventWord (.rxt d)]
  | .frame v => frameWords v
  | .rxs bs => rxsWords bs
  | .ticks n => ticksWords n

/-- The event words of a script, line after line. -/
def scriptWords (ls : List ScriptLine) : List EventWord := ls.flatMap ScriptLine.words

/-! The text of a line (R73, R74): letters, a byte written `0xNN` (R11), an integer in decimals or `0xN…`, bytes
of RXS parted by commas; `;` starts a comment. Blanks between words may be repeated (log entry 23). -/

/-- A hexadecimal digit, in capitals (R11). -/
def hexDigit (n : Nat) : Char := ("0123456789ABCDEF".toList)[n % 16]?.getD '0'

/-- A byte written `0xNN` (R11). -/
def byteText (d : Byte) : List Char := ['0', 'x', hexDigit (d.toNat / 16), hexDigit d.toNat]

/-- The text of an event, one line of a script (R73). -/
def eventText : Event → List Char
  | .reset => "RESET".toList
  | .rx d => "RX ".toList ++ byteText d
  | .tick => "TICK".toList
  | .rxt d => "RXT ".toList ++ byteText d

/-- The line that stands for an event alone. -/
def eventLine : Event → ScriptLine
  | .reset => .reset
  | .rx d => .rx d
  | .tick => .tick
  | .rxt d => .rxt d

/-- The value of a digit in a base of at most 16, capitals or not. -/
def digitValue (base : Nat) (c : Char) : Option Nat :=
  let v :=
    if '0'.toNat ≤ c.toNat ∧ c.toNat ≤ '9'.toNat then c.toNat - '0'.toNat
    else if 'A'.toNat ≤ c.toNat ∧ c.toNat ≤ 'F'.toNat then c.toNat - 'A'.toNat + 10
    else if 'a'.toNat ≤ c.toNat ∧ c.toNat ≤ 'f'.toNat then c.toNat - 'a'.toNat + 10
    else 16
  if v < base then some v else none

/-- A number written in digits of a base, most significant first, continuing from `acc`. -/
def readDigits (base : Nat) : Nat → List Char → Option Nat
  | acc, [] => some acc
  | acc, c :: cs =>
    match digitValue base c with
    | some v => readDigits base (acc * base + v) cs
    | none => none

/-- A natural number, `0xN…` or decimal (R11). -/
def readNat : List Char → Option Nat
  | [] => none
  | '0' :: 'x' :: c :: cs => readDigits 16 0 (c :: cs)
  | c :: cs => readDigits 10 0 (c :: cs)

/-- An integer: a natural number, with a minus sign or none. -/
def readInt : List Char → Option Int
  | '-' :: cs => (readNat cs).map (fun n => -(n : Int))
  | cs => (readNat cs).map (fun n => (n : Int))

/-- A byte written `0xNN` (R11). -/
def readByte : List Char → Option Byte
  | ['0', 'x', a, b] => (readDigits 16 0 [a, b]).map (BitVec.ofNat 8)
  | _ => none

/-- The pieces of a text between separators. -/
def splitText (sep : Char) : List Char → List (List Char)
  | [] => [[]]
  | c :: cs =>
    if c = sep then [] :: splitText sep cs
    else
      match splitText sep cs with
      | [] => [[c]]
      | t :: ts => (c :: t) :: ts

/-- The words of a text: its pieces between blanks, the empty ones left out. -/
def textWords (cs : List Char) : List (List Char) := (splitText ' ' cs).filter (fun w => !w.isEmpty)

/-- One byte in each piece; none where a piece is no byte. -/
def readBytes : List (List Char) → Option (List Byte)
  | [] => some []
  | p :: ps =>
    match textWords p with
    | [w] =>
      match readByte w, readBytes ps with
      | some d, some ds => some (d :: ds)
      | _, _ => none
    | _ => none

/-- The line a text stands for, the comment taken off: none where it is no line, an empty list where it is
blank. -/
def readLine (cs : List Char) : Option (List ScriptLine) :=
  let body := cs.takeWhile (fun c => c != ';')
  match textWords body with
  | [] => some []
  | w :: args =>
    if w = "RESET".toList ∧ args = [] then some [.reset]
    else if w = "TICK".toList ∧ args = [] then some [.tick]
    else if w = "RXS".toList then
      (readBytes (splitText ',' ((body.dropWhile (fun c => c == ' ')).drop 3))).map (fun ds => [.rxs ds])
    else
      match args with
      | [a] =>
        if w = "RX".toList then (readByte a).map (fun d => [.rx d])
        else if w = "RXT".toList then (readByte a).map (fun d => [.rxt d])
        else if w = "TICKS".toList then (readNat a).map (fun n => [.ticks n])
        else if w = "FRAME".toList then
          match readInt a with
          | some v => if (ScriptLine.frame v).wf then some [.frame v] else none
          | none => none
        else none
      | _ => none

end Sys2Proof.Machine
end

