-- ==== Sys2Proof/Machine/Timing.lean ====
section
/-! DEFINITION. The timing of R128 and R159, in seconds. No rule of the model depends on it: it bounds only
the environment's schedule. -/

namespace Sys2Proof.Machine

/-- The tick period, `1 / P_SAMPLE_RATE_HZ` (R128). -/
def tickPeriod (p : Params) : Rat := 1 / p.sampleRateHz

/-- The serial bit time, `1 / P_BAUD` (R159). -/
def bitTime (p : Params) : Rat := 1 / (p.baud : Rat)

/-- The bit times of one character: a start bit, the data bits, the parity bit where there is one, and the
stop bits (R159). PRESUMED: the spec takes it from general knowledge (log entry 17). -/
def characterBits (f : UartFraming) : Nat :=
  1 + f.dataBits + (if f.parity = .none then 0 else 1) + f.stopBits

/-- The time of one byte on the line (R159). -/
def byteTime (p : Params) : Rat := (characterBits p.uartFraming : Rat) * bitTime p

/-- The time of one frame sent back to back: its data bytes and its sentinel (R60, R159). -/
def frameTime (p : Params) : Rat := ((Config.frameDataBytes + 1 : Nat) : Rat) * byteTime p

/-- The most frames a second of a fully loaded line (R159). -/
def maxFramesPerSecond (p : Params) : Rat := 1 / frameTime p

/-- The most frames in one tick period of a fully loaded line (R159). -/
def maxFramesPerTick (p : Params) : Rat := tickPeriod p / frameTime p

/-- The nominal instant, after reset is released, of tick number `n`, the first being number 0 (R128). The
real timer's accuracy is not given, so this bounds no run (log entry 13). -/
def nominalTickTime (p : Params) (n : Nat) : Rat := Config.tickPhase + (n : Rat) * tickPeriod p

end Sys2Proof.Machine
end

