-- ==== Sys2Proof/Safety.lean ====
section
/-! DEFINITION. The terms statements about runs use: what an event word is, what a run publishes, the
invariant of R30, and the parts of the state that only one agent sees. -/

namespace Sys2Proof.Machine

/-- The event is a RESET. -/
def isReset (w : EventWord) : Bool := wordKind w == kindReset

/-- The event has a TICK part: TICK or RXT (R101, R124). -/
def hasTick (w : EventWord) : Bool := wordKind w == kindTick || wordKind w == kindRxt

/-- The event has an RX part: RX or RXT (R124). -/
def hasByte (w : EventWord) : Bool := wordKind w == kindRx || wordKind w == kindRxt

/-- The event's RX part is an RX_TERM in this state: a sentinel that meets a full buffer (R71, R80). -/
def publishes (w : EventWord) (s : State) : Bool :=
  hasByte w && wordData w == Config.sentinel && s.count == Config.fullCount

/-- No event of the list is a RESET. -/
def noReset (ws : List EventWord) : Bool := ws.all (fun w => !isReset w)

/-- How many events of the list have a TICK part. -/
def tickCount (ws : List EventWord) : Nat := ws.countP hasTick

/-- The bytes a list of events delivers, in order. -/
def receivedBytes (ws : List EventWord) : List Byte := (ws.filter hasByte).map wordData

/-- The samples a run publishes, in order: what `SAMPLE` holds after each RX_TERM (R83, R86). -/
def published : List EventWord → State → List Sample
  | [], _ => []
  | w :: ws, s =>
    match perform w s with
    | .next t => (if publishes w s then [t.sample] else []) ++ published ws t
    | .fault _ => []
    | .refused _ => []

/-- The state an outcome goes on with, if it goes on. -/
def nextOf (o : Result) : Option State :=
  match o with
  | .next t => some t
  | .fault _ => none
  | .refused _ => none

/-- Invariant I1 of R30: `COUNT` is 0, 1 or 2. -/
abbrev LegalCount (s : State) : Prop := s.count ≠ Config.reservedCount

/-- `DAC_OUT` is the last code written, or the value RESET gave it (R27, R101, R150). -/
abbrev DacOutTracksLog (s : State) : Prop :=
  s.dacOut = 0 ∨ s.log.getLast? = some s.dacOut

/-- The invariant of the block: I1 of R30, and the tie between `DAC_OUT` and the log. -/
abbrev Inv (s : State) : Prop := LegalCount s ∧ DacOutTracksLog s

/-- What the framer holds and publishes: `COUNT`, `BUF` and `SAMPLE` (R20). -/
def framerView (s : State) : Count × Byte × Byte × Sample := (s.count, s.buf0, s.buf1, s.sample)

/-- Desync (R14, R89), of the state in which the sender begins a frame: the framer is not at a frame boundary.
Nothing stores it (R23, R31). -/
def inDesync (s : State) : Prop := s.count ≠ Config.emptyCount

/-- The observation of a run (R9): the final state elements of R20 and the DAC write log. -/
structure Observation where
  count : Count
  buf0 : Byte
  buf1 : Byte
  sample : Sample
  dacOut : Sample
  log : List Sample
deriving DecidableEq, Repr

/-- What is observed of the state a run ends in (R9). -/
def observe (s : State) : Observation :=
  { count := s.count
    buf0 := s.buf0
    buf1 := s.buf1
    sample := s.sample
    dacOut := s.dacOut
    log := s.log }

/-- An event without its TICK part (R124): TICK becomes nothing, RXT(d) becomes RX(d). -/
def withoutTick (w : EventWord) : Option EventWord :=
  if wordKind w = kindTick then none
  else if wordKind w = kindRxt then some (eventWord (.rx (wordData w)))
  else some w

/-- A script without its ticks: the byte stream and the resets the framer sees. -/
def withoutTicks (ws : List EventWord) : List EventWord := ws.filterMap withoutTick

/-- What one whole frame `[b0, b1, sentinel]` does from a state (R90): the samples it publishes in order, and
`COUNT` and `BUF` after it. `SAMPLE` holds the last one published, and no DAC write happens. -/
def FrameOutcome (s : State) (b0 b1 : Byte) (samples : List Sample) (c : Count) (q0 q1 : Byte) : Prop :=
  ∃ t, runWords (rxsWords [b0, b1, Config.sentinel]) s = .next t ∧
    published (rxsWords [b0, b1, Config.sentinel]) s = samples ∧
    t.count = c ∧ t.buf0 = q0 ∧ t.buf1 = q1 ∧
    t.sample = samples.getLast?.getD s.sample ∧ t.dacOut = s.dacOut ∧ t.log = s.log

/-- The state with other timing parameters (R28, and R6 of the format): none of them is readable by an operation. -/
def retime (rate : Rat) (baud : Nat) (format : UartFraming) (s : State) : State :=
  { s with
    params := { s.params with sampleRateHz := rate, baud := baud, uartFraming := format } }

/-- The two states agree but for bytes of `BUF` that nothing has written since `COUNT` was last 0: `BUF[0]` at
`COUNT` = 0, `BUF[1]` at `COUNT` = 0 or 1 (R30). -/
def AgreeButStaleBuffer (s t : State) : Prop :=
  s.count = t.count ∧ s.sample = t.sample ∧ s.dacOut = t.dacOut ∧ s.log = t.log ∧
    s.draws = t.draws ∧ s.params = t.params ∧ s.script = t.script ∧
    (s.count ≠ Config.emptyCount → s.buf0 = t.buf0) ∧
    (s.count = Config.fullCount → s.buf1 = t.buf1)

end Sys2Proof.Machine
end

