-- ==== Sys2Proof/Certificates/Slice0/Obligations.lean ====
section
/-! DEFINITION. The statements for the provers. A docstring names the rule a statement formalises; a
statement that rests on a choice of the model names the log entry. -/

open Sys2Proof Sys2Proof.Machine

/-! ### Encodings -/

/-- One written-out key of each row of R64 decodes to that row's operation: the bits are the table's. -/
def Obligations.WrittenKeysDecode : Prop :=
  decodeKey 0b100000000000 = .ok .reset ∧
  decodeKey 0b010000000000 = .ok .tick ∧
  decodeKey 0b110100110100 = .ok (.rxt 0x34) ∧
  decodeKey 0b001000000000 = .ok .rxTerm ∧
  decodeKey 0b000000110100 = .ok (.rxAppend0 0x34) ∧
  decodeKey 0b000100010010 = .ok (.rxAppend1 0x12) ∧
  decodeKey 0b001001010110 = .ok (.rxDrop 0x56)

/-- R62 (the spec's own encoding, its decision D1): an event word is its kind and its data, and each event has
the word of the table. -/
def Obligations.EventWordsFollowTheTable : Prop :=
  (∀ w : EventWord, w.toNat = 256 * (wordKind w).toNat + (wordData w).toNat) ∧
  (∀ d : Byte, (eventWord (.rx d)).toNat = 0x000 + d.toNat) ∧
  (eventWord .tick).toNat = 0x100 ∧
  (eventWord .reset).toNat = 0x200 ∧
  (∀ d : Byte, (eventWord (.rxt d)).toNat = 0x300 + d.toNat) ∧
  (∀ w : EventWord,
    (wordKind w = 0b00 → decodeEvent w = .rx (wordData w)) ∧
    (wordKind w = 0b01 → decodeEvent w = .tick) ∧
    (wordKind w = 0b10 → decodeEvent w = .reset) ∧
    (wordKind w = 0b11 → decodeEvent w = .rxt (wordData w))) ∧
  (∀ e : Event, decodeEvent (eventWord e) = e)

/-- Decode and encode agree: the key of every well-formed operation, at every `COUNT` where the operation map
selects it, decodes to that operation (R63 and R64, which the spec derives). -/
def Obligations.DecodeInvertsEncode : Prop :=
  ∀ (i : Instr) (c : Count), i.wf = true → i.enabledAt c = true → decodeKey (encode i c) = .ok i

/-- The other direction: a key that decodes gives a well-formed operation, enabled at the key's `COUNT`, of
the key's kind; and, where no bit of the key is ignored (RX and RXT), it is that operation's own key. -/
def Obligations.DecodedKeyIsTheOperationsKey : Prop :=
  ∀ (k : Key) (i : Instr), decodeKey k = .ok i →
    i.wf = true ∧ i.enabledAt (keyCount k) = true ∧
    keyKind (encode i (keyCount k)) = keyKind k ∧
    (keyKind k = kindRx ∨ keyKind k = kindRxt → encode i (keyCount k) = k)

/-- A key is rejected exactly in row 8 of R64: an RX or RXT kind with `COUNT` = 3. -/
def Obligations.OnlyReservedCountKeysAreRejected : Prop :=
  ∀ k : Key, (∃ r, decodeKey k = .error r) ↔
    keyCount k = 3 ∧ (keyKind k = kindRx ∨ keyKind k = kindRxt)

/-- R68 (the spec's decision D24): the data bits of TICK and RESET have no effect, at any `COUNT`; scripts
write them zero. -/
def Obligations.IgnoredDataBitsHaveNoEffect : Prop :=
  (∀ (c : Count) (d : Byte), decodeKey (mkKey 0b01 c d) = .ok .tick ∧
    decodeKey (mkKey 0b10 c d) = .ok .reset) ∧
  (∀ (d : Byte) (s : State), perform (mkWord 0b01 d) s = perform (mkWord 0b01 0) s ∧
    perform (mkWord 0b10 d) s = perform (mkWord 0b10 0) s) ∧
  wordData (eventWord .tick) = 0 ∧ wordData (eventWord .reset) = 0

/-- R64's remark on rows 4 to 7, of the spec's own map: at every legal `COUNT`, every received byte has
exactly one operation. -/
def Obligations.EveryByteHasExactlyOneOperation : Prop :=
  ∀ (c : Count) (d : Byte), c ≠ 3 →
    ∃ i : Instr, (i.wf = true ∧ i.enabledAt c = true ∧ encodeEvent i = eventWord (.rx d)) ∧
      ∀ j : Instr, j.wf = true ∧ j.enabledAt c = true ∧ encodeEvent j = eventWord (.rx d) → j = i

/-- R74 (notation of the spec's decision D19): FRAME v is its low byte, its high byte and the sentinel, and
the two bytes, low first, are v modulo 65536. -/
def Obligations.FrameBytesAreTheSampleLowFirst : Prop :=
  ∀ v : Int, -32768 ≤ v → v ≤ 32767 → ∃ b0 b1 : Byte,
    frameWords v = [eventWord (.rx b0), eventWord (.rx b1), eventWord (.rx 0x00)] ∧
    (b0.toNat : Int) + 256 * (b1.toNat : Int) = v % 65536

/-- R73 (notation of the spec's decision D19): the text of an event reads back as that event's line, whose only
word is the event's word. -/
def Obligations.EventTextReadsBack : Prop :=
  ∀ e : Event, readLine (eventText e) = some [eventLine e] ∧ (eventLine e).words = [eventWord e]

/-! ### The step -/

/-- A step delivers the next event word: it runs the operation that the word and the current `COUNT` decode
to, on the state without that word. The script is the model's own (log entry 1). -/
def Obligations.StepRunsTheDecodedOperation : Prop :=
  ∀ (s : State) (w : EventWord) (ws : List EventWord) (i : Instr), s.script = w :: ws →
    decodeKey (keyOf w s.count) = .ok i → step s = exec i { s with script := ws }

/-- With no event to deliver the block waits and changes nothing (R92, R134; DEDUCED, log entry 2). -/
def Obligations.StepWaitsWithoutAnEvent : Prop :=
  ∀ s : State, s.script = [] → step s = .next s

/-- Running the host's machine over a script is performing its events in order: the run of R9. -/
def Obligations.StepsOverAScriptAreTheRunOfItsEvents : Prop :=
  ∀ (ws rest : List EventWord) (s : State),
    Host.Core.run Sys2Proof.core ws.length { s with script := ws ++ rest } =
      runWords ws { s with script := rest }

/-- R70 (the spec's decision D13; stopping for good is log entry 20): an RX or RXT event at `COUNT` = 3
faults, and no further step clears the fault. -/
def Obligations.ReservedCountFaultsForGood : Prop :=
  ∀ (s : State) (w : EventWord) (ws : List EventWord), s.count = 3 → s.script = w :: ws →
    (wordKind w = kindRx ∨ wordKind w = kindRxt) →
    step s = .fault (.unreachable .count3) ∧
    ∀ n : Nat, Host.Core.run Sys2Proof.core (n + 1) s = .fault (.unreachable .count3)

/-! ### The framer -/

/-- R80: an RX event is dispatched by the source's three steps, in their order. -/
def Obligations.RxDispatchFollowsTheThreeSteps : Prop :=
  ∀ (d : Byte) (s : State), perform (eventWord (.rx d)) s =
    if d = 0x00 ∧ s.count = 2 then exec .rxTerm s
    else if s.count < 2 then (if s.count = 0 then exec (.rxAppend0 d) s else exec (.rxAppend1 d) s)
    else if s.count = 2 then exec (.rxDrop d) s
    else .fault (.unreachable .count3)

/-- R81: RX_APPEND0 stores any byte, 0x00 too, in `BUF[0]`, sets `COUNT` to 1, and writes nothing else. -/
def Obligations.RxAppend0StoresTheFirstByte : Prop :=
  ∀ (d : Byte) (s : State), s.count = 0 →
    decodeKey (0b0000#4 ++ d) = .ok (.rxAppend0 d) ∧
    exec (.rxAppend0 d) s = .next { s with buf0 := d, count := 1 }

/-- R82: RX_APPEND1 stores any byte, 0x00 too, in `BUF[1]`, sets `COUNT` to 2, and writes nothing else. -/
def Obligations.RxAppend1StoresTheSecondByte : Prop :=
  ∀ (d : Byte) (s : State), s.count = 1 →
    decodeKey (0b0001#4 ++ d) = .ok (.rxAppend1 d) ∧
    exec (.rxAppend1 d) s = .next { s with buf1 := d, count := 2 }

/-- R83: RX_TERM publishes the buffered bytes, low byte first, sets `COUNT` to 0, and writes nothing else. -/
def Obligations.RxTermPublishesTheBuffer : Prop :=
  ∀ s : State, s.count = 2 →
    decodeKey 0b001000000000 = .ok .rxTerm ∧
    exec .rxTerm s = .next { s with sample := s.buf1 ++ s.buf0, count := 0 }

/-- R84: RX_DROP changes nothing, however often it is repeated, and from a full buffer only a received 0x00 or
a RESET leaves `COUNT` = 2. -/
def Obligations.RxDropChangesNothing : Prop :=
  ∀ s : State, s.count = 2 →
    (∀ d : Byte, d ≠ 0x00 → decodeKey (0b0010#4 ++ d) = .ok (.rxDrop d) ∧ exec (.rxDrop d) s = .next s) ∧
    (∀ ds : List Byte, (∀ d ∈ ds, d ≠ 0x00) → runWords (ds.map fun d => eventWord (.rx d)) s = .next s) ∧
    (∀ (w : EventWord) (t : State), perform w s = .next t → t.count ≠ 2 →
      wordKind w = kindReset ∨
        ((wordKind w = kindRx ∨ wordKind w = kindRxt) ∧ wordData w = 0x00))

/-- R85 (derived by the spec): the `COUNT` transition table, cell by cell: the operation, the next `COUNT`,
and where `SAMPLE` is written; and RESET moves any `COUNT` to 0. -/
def Obligations.CountFollowsTheTransitionTable : Prop :=
  ∀ (s : State) (d : Byte),
    (s.count = 0 → decodeKey (keyOf (eventWord (.rx d)) s.count) = .ok (.rxAppend0 d) ∧
      ∃ t, perform (eventWord (.rx d)) s = .next t ∧ t.count = 1 ∧ t.sample = s.sample) ∧
    (s.count = 1 → decodeKey (keyOf (eventWord (.rx d)) s.count) = .ok (.rxAppend1 d) ∧
      ∃ t, perform (eventWord (.rx d)) s = .next t ∧ t.count = 2 ∧ t.sample = s.sample) ∧
    (s.count = 2 → d = 0x00 → decodeKey (keyOf (eventWord (.rx d)) s.count) = .ok .rxTerm ∧
      ∃ t, perform (eventWord (.rx d)) s = .next t ∧ t.count = 0 ∧ t.sample = s.buf1 ++ s.buf0) ∧
    (s.count = 2 → d ≠ 0x00 → decodeKey (keyOf (eventWord (.rx d)) s.count) = .ok (.rxDrop d) ∧
      ∃ t, perform (eventWord (.rx d)) s = .next t ∧ t.count = 2 ∧ t.sample = s.sample) ∧
    (∃ t, perform (eventWord .reset) s = .next t ∧ t.count = 0)

/-- R87 (derived by the spec): a 0x00 received with `COUNT` < 2, alone or with a tick, is stored as data,
terminates no frame and leaves `SAMPLE`. -/
def Obligations.ZeroByteBelowFullIsData : Prop :=
  ∀ (s : State) (w : EventWord), s.count < 2 → (wordKind w = kindRx ∨ wordKind w = kindRxt) →
    wordData w = 0x00 →
    ∃ t, perform w s = .next t ∧ t.sample = s.sample ∧ t.count = s.count + 1 ∧
      (s.count = 0 → t.buf0 = 0x00 ∧ t.buf1 = s.buf1) ∧
      (s.count = 1 → t.buf1 = 0x00 ∧ t.buf0 = s.buf0)

/-- R86: `SAMPLE` is written only by RX_TERM and RESET, once by each RX_TERM; a run with neither keeps it. -/
def Obligations.SampleIsWrittenOnlyByTermAndReset : Prop :=
  (∀ (s t : State) (w : EventWord), perform w s = .next t →
    t.sample = if wordKind w = kindReset then 0
      else if (wordKind w = kindRx ∨ wordKind w = kindRxt) ∧ wordData w = 0x00 ∧ s.count = 2
        then s.buf1 ++ s.buf0
      else s.sample) ∧
  (∀ (ws : List EventWord) (s t : State), noReset ws = true → published ws s = [] →
    runWords ws s = .next t → t.sample = s.sample)

/-- R65: the assembled sample, its signed value, and that every sign extension keeps it. -/
def Obligations.AssembledSampleHasTheSignedValue : Prop :=
  ∀ s : State, s.count = 2 → ∃ t, exec .rxTerm s = .next t ∧
    t.sample.extractLsb' 0 8 = s.buf0 ∧ t.sample.extractLsb' 8 8 = s.buf1 ∧
    t.sample.toInt = (s.buf0.toNat : Int) + 256 * (s.buf1.toNat : Int)
      - 65536 * (if s.buf1.getLsbD 7 then 1 else 0) ∧
    ∀ n : Nat, 16 ≤ n → (t.sample.signExtend n).toInt = t.sample.toInt

/-- R88 (derived by the spec): from `COUNT` = 0 a stream of whole frames publishes each frame's value in order
and ends at `COUNT` = 0 with the last value in `SAMPLE`; no value is excepted, those with a 0x00 byte neither.
-/
def Obligations.WholeFramesPublishTheirValuesInOrder : Prop :=
  ∀ (vs : List Int) (s : State), s.count = 0 → (∀ v ∈ vs, -32768 ≤ v ∧ v ≤ 32767) →
    ∃ t, runWords (vs.flatMap frameWords) s = .next t ∧ t.count = 0 ∧
      (published (vs.flatMap frameWords) s).map BitVec.toInt = vs ∧
      t.sample.toInt = vs.getLast?.getD s.sample.toInt

/-- R90 (derived by the spec): the one-frame law, row by row, and its first consequence. -/
def Obligations.OneFrameFromEveryCount : Prop :=
  ∀ (s : State) (b0 b1 : Byte),
    (s.count = 0 → FrameOutcome s b0 b1 [b1 ++ b0] 0 b0 b1) ∧
    (s.count = 1 → b1 ≠ 0x00 → FrameOutcome s b0 b1 [b0 ++ s.buf0] 0 s.buf0 b0) ∧
    (s.count = 1 → b1 = 0x00 → FrameOutcome s b0 b1 [b0 ++ s.buf0] 1 0x00 b0) ∧
    (s.count = 2 → b0 ≠ 0x00 → b1 ≠ 0x00 →
      FrameOutcome s b0 b1 [s.buf1 ++ s.buf0] 0 s.buf0 s.buf1) ∧
    (s.count = 2 → b0 ≠ 0x00 → b1 = 0x00 →
      FrameOutcome s b0 b1 [s.buf1 ++ s.buf0] 1 0x00 s.buf1) ∧
    (s.count = 2 → b0 = 0x00 → FrameOutcome s b0 b1 [s.buf1 ++ s.buf0] 2 b1 0x00) ∧
    (s.count ≠ 3 → b0 ≠ 0x00 → b1 ≠ 0x00 →
      ∃ v q0 q1, FrameOutcome s b0 b1 [v] 0 q0 q1)

/-- R91: a stream of whole frames that all have byte0 = 0x00, entered at `COUNT` = 2, is never back in step. Each
frame's byte0 publishes what the buffer holds: the stale buffer first, then {0x00, byte1 of the frame before}; and
every frame ends at `COUNT` = 2. R91's example is FRAME 256 repeated: the stale buffer, then 1 ever after. -/
def Obligations.ZeroFirstFramesNeverResynchronise : Prop :=
  (∀ (b : Byte) (bs : List Byte) (s : State), s.count = 2 →
    ∃ t, runWords ((b :: bs).flatMap fun b1 => rxsWords [0x00, b1, 0x00]) s = .next t ∧ t.count = 2 ∧
      published ((b :: bs).flatMap fun b1 => rxsWords [0x00, b1, 0x00]) s =
        (s.buf1 ++ s.buf0) :: (b :: bs).dropLast.map fun b1 => 0x00#8 ++ b1) ∧
  (∀ (n : Nat) (s : State), s.count = 2 →
    ∃ t, runWords (List.replicate (n + 1) (frameWords 256)).flatten s = .next t ∧ t.count = 2 ∧
      published (List.replicate (n + 1) (frameWords 256)).flatten s =
        (s.buf1 ++ s.buf0) :: List.replicate n (1 : Sample))

/-- I2 of R30 (derived by the spec): since `COUNT` was last 0, the bytes a full buffer holds are the first two
received, and the byte a half-full one holds is the first; the buffer is empty exactly when none was received.
-/
def Obligations.BufferHoldsTheFirstBytesReceived : Prop :=
  ∀ (ws : List EventWord) (s t : State), s.count = 0 → noReset ws = true → published ws s = [] →
    runWords ws s = .next t →
    (t.count = 0 → receivedBytes ws = []) ∧
    (t.count = 1 → receivedBytes ws = [t.buf0]) ∧
    (t.count = 2 → ∃ dropped, receivedBytes ws = t.buf0 :: t.buf1 :: dropped) ∧
    t.count ≠ 3

/-- The consequence of R30 (derived by the spec): bytes of `BUF` not written since `COUNT` was last 0 are
unobservable. Two states that differ only in them go through every run alike: same `COUNT`, `SAMPLE`,
`DAC_OUT` and log. -/
def Obligations.StaleBufferBytesAreUnobservable : Prop :=
  ∀ (ws : List EventWord) (s s' t : State), AgreeButStaleBuffer s s' → runWords ws s = .next t →
    ∃ t', runWords ws s' = .next t' ∧ AgreeButStaleBuffer t t'

/-- R154 (derived by the spec): entering a stream in mid-frame after RESET. At the sender's byte1, then at its
terminator: the bogus sample and the return to step; and, where a 0x00 data byte meets `COUNT` = 2, that the
desync goes on. -/
def Obligations.MidStreamEntryPublishesABogusSample : Prop :=
  ∀ (s : State) (b1 c0 c1 : Byte),
    (c0 ≠ 0x00 → c1 ≠ 0x00 → ∃ t,
      runWords (eventWord .reset :: rxsWords [b1, 0x00, c0, c1, 0x00]) s = .next t ∧ t.count = 0 ∧
      published (eventWord .reset :: rxsWords [b1, 0x00, c0, c1, 0x00]) s = [0x00#8 ++ b1]) ∧
    (c1 ≠ 0x00 → ∃ t,
      runWords (eventWord .reset :: rxsWords [0x00, c0, c1, 0x00]) s = .next t ∧ t.count = 0 ∧
      published (eventWord .reset :: rxsWords [0x00, c0, c1, 0x00]) s = [c0 ++ 0x00#8]) ∧
    (c0 = 0x00 ∨ c1 = 0x00 → ∃ t,
      runWords (eventWord .reset :: rxsWords [b1, 0x00, c0, c1, 0x00]) s = .next t ∧ t.count ≠ 0) ∧
    (c1 = 0x00 → ∃ t,
      runWords (eventWord .reset :: rxsWords [0x00, c0, c1, 0x00]) s = .next t ∧ t.count ≠ 0)

/-! ### The DAC output driver -/

/-- R100: TICK writes `SAMPLE` to `DAC_OUT` and to the log, always, and touches nothing else. -/
def Obligations.TickWritesTheSample : Prop :=
  ∀ s : State,
    (∀ (c : Count) (x : Byte), decodeKey (0b01#2 ++ c ++ x) = .ok .tick) ∧
    exec .tick s = .next { s with dacOut := s.sample, log := s.log ++ [s.sample] }

/-- R101: an event with a TICK part makes exactly one DAC write, of the code `DAC_OUT` then holds and the
peripheral then shows; no other event writes the log, and of them only RESET writes `DAC_OUT`. That RESET's value
is 0 is R150's, by the spec's decision D5 (log entry 10). -/
def Obligations.OneDacWritePerTick : Prop :=
  ∀ (w : EventWord) (s t : State), perform w s = .next t →
    (wordKind w = kindTick ∨ wordKind w = kindRxt →
      t.log = s.log ++ [t.dacOut] ∧ analogOutput t = Config.dacSat (dacValue t.dacOut)) ∧
    (wordKind w = kindRx → t.log = s.log ∧ t.dacOut = s.dacOut) ∧
    (wordKind w = kindReset → t.log = s.log ∧ t.dacOut = 0)

/-- R106 and R107 (derived by the spec): after any run since RESET, the ticks of a run that publishes nothing
and is not reset append one entry each, all equal to the last sample published since RESET, or to 0. -/
def Obligations.TicksRepeatTheLastPublishedSample : Prop :=
  ∀ (us ws : List EventWord) (s m t : State), noReset us = true → noReset ws = true →
    runWords (eventWord .reset :: us) s = .next m → published ws m = [] → runWords ws m = .next t →
    t.log = m.log ++ List.replicate (tickCount ws)
      ((published (eventWord .reset :: us) s).getLast?.getD 0)

/-- R48 (the spec's decision D16): with an atomic update every event with a TICK part, RXT too, writes the
value of the last RX_TERM before it since RESET, or 0 where there is none. -/
def Obligations.AtomicTickReadsTheLatestSample : Prop :=
  ∀ (us : List EventWord) (w : EventWord) (s m t : State), s.params.sampleUpdateAtomic = true →
    noReset us = true → runWords (eventWord .reset :: us) s = .next m →
    (wordKind w = kindTick ∨ wordKind w = kindRxt) → perform w m = .next t →
    t.dacOut = (published (eventWord .reset :: us) s).getLast?.getD 0 ∧ t.log = m.log ++ [t.dacOut]

/-- R102, R103: the code TICK writes is the bit pattern of `SAMPLE`, unclamped; its value is exactly
`signed(SAMPLE) / 2048`, in [0, 2047/2048] for the sender's samples and in [-16, 32767/2048] for all. -/
def Obligations.WrittenVoltageIsTheSampleOver2048 : Prop :=
  ∀ s : State, ∃ t, exec .tick s = .next t ∧ t.dacOut = s.sample ∧
    dacValue t.dacOut = (s.sample.toInt : Rat) / 2048 ∧
    (0 ≤ s.sample.toInt → s.sample.toInt ≤ 2047 →
      0 ≤ dacValue t.dacOut ∧ dacValue t.dacOut ≤ 2047 / 2048) ∧
    -16 ≤ dacValue t.dacOut ∧ dacValue t.dacOut ≤ 32767 / 2048

/-- R66 (the spec's decision D9): the codes stand for exactly the multiples of 2^-11 in [-16, 16 - 2^-11],
each for one. -/
def Obligations.CodesAreTheQ4Point11Values : Prop :=
  (∀ q : Rat, (∃ c : Sample, dacValue c = q) ↔
    -16 ≤ q ∧ q ≤ 16 - 1 / 2048 ∧ ∃ m : Int, q = (m : Rat) * (1 / 2048)) ∧
  (∀ c c' : Sample, dacValue c = dacValue c' → c = c')

/-- R105 (the spec's decision D23), whose format is from general knowledge (log entry 17): every written value
is exactly a binary32 number, none subnormal. -/
def Obligations.WrittenValuesAreExactInBinary32 : Prop :=
  ∀ c : Sample, IsBinary32 (dacValue c)

/-! ### Coincident byte and tick -/

/-- R124 (the spec's decision D8): RXT writes the old `SAMPLE`, or, where it meets an RX_TERM and the update
is not atomic, a value with each byte drawn from the old or the new sample; then it performs the RX part on
that state. It faults at `COUNT` = 3, and with an atomic update it is TICK followed by RX(d). `n` is the
model's draw counter (log entry 7); that every mixture can be drawn is `TornReadMixesOldAndNewBytes`. -/
def Obligations.RxtWritesTheOldOrTornSampleThenTakesTheByte : Prop :=
  ∀ (d : Byte) (s : State),
    (∀ c : Count, c ≠ 3 → decodeKey (0b11#2 ++ c ++ d) = .ok (.rxt d)) ∧
    (s.count = 3 → exec (.rxt d) s = .fault (.unreachable .count3)) ∧
    (s.count ≠ 3 → ∃ (c : Sample) (n : Nat) (t : State), exec (.rxt d) s = .next t ∧
      perform (eventWord (.rx d)) { s with dacOut := c, log := s.log ++ [c], draws := n } = .next t ∧
      (d = 0x00 ∧ s.count = 2 ∧ s.params.sampleUpdateAtomic = false →
        (lowByte c = lowByte s.sample ∨ lowByte c = s.buf0) ∧
        (highByte c = highByte s.sample ∨ highByte c = s.buf1)) ∧
      (¬ (d = 0x00 ∧ s.count = 2 ∧ s.params.sampleUpdateAtomic = false) → c = s.sample)) ∧
    (s.params.sampleUpdateAtomic = true →
      exec (.rxt d) s = runWords [eventWord .tick, eventWord (.rx d)] s)

/-- R45 (the spec's decision D7): what a tick that coincides with an RX_TERM reads. Atomic: the whole old
value. Not atomic: a mixture of bytes, and every mixture is a possible draw. `SAMPLE` ends up new either way,
and the model's draw counter moves on only for a torn read (log entry 7). -/
def Obligations.TornReadMixesOldAndNewBytes : Prop :=
  (∀ s : State, s.count = 2 → ∃ t, exec (.rxt 0x00) s = .next t ∧
    t.sample = s.buf1 ++ s.buf0 ∧ t.count = 0 ∧ t.log = s.log ++ [t.dacOut] ∧
    (s.params.sampleUpdateAtomic = true → t.dacOut = s.sample ∧ t.draws = s.draws) ∧
    (s.params.sampleUpdateAtomic = false →
      (lowByte t.dacOut = lowByte s.sample ∨ lowByte t.dacOut = lowByte t.sample) ∧
      (highByte t.dacOut = highByte s.sample ∨ highByte t.dacOut = highByte t.sample) ∧
      t.draws = s.draws + 1)) ∧
  (∀ old new c : Sample, (∃ l h, tornMix l h old new = c) ↔
    (lowByte c = lowByte old ∨ lowByte c = lowByte new) ∧
    (highByte c = highByte old ∨ highByte c = highByte new))

/-! ### Reset -/

/-- R150 (values of the spec's decisions D3 to D5) but for the timer, which has no effect in a model without
time (log entry 13): RESET writes the reset values from any state, keeps the log, discards a partial frame,
and may be repeated. -/
def Obligations.ResetWritesTheResetValues : Prop :=
  ∀ s : State,
    exec .reset s =
      .next { s with count := 0, buf0 := 0x00, buf1 := 0x00, sample := 0x0000, dacOut := 0x0000 } ∧
    runWords [eventWord .reset, eventWord .reset] s = runWords [eventWord .reset] s ∧
    ∀ d : Byte, ∃ t, runWords [eventWord .reset, eventWord (.rx d)] s = .next t ∧
      t.count = 1 ∧ t.buf0 = d

/-- The machine starts with the reset values of R32 (all but SAMPLE's are the spec's decisions D3 to D5; log entry
10), the default parameters of R6 (their literals are unaudited, log entries 14, 16 and 17) and an empty log, as no
tick has happened yet (DEDUCED, log entry 19). -/
def Obligations.StartStateHoldsTheResetValues : Prop :=
  State.reset.count = 0 ∧ State.reset.buf0 = 0x00 ∧ State.reset.buf1 = 0x00 ∧
  State.reset.sample = 0x0000 ∧ State.reset.dacOut = 0x0000 ∧ State.reset.log = [] ∧
  State.reset.params.sampleUpdateAtomic = true ∧ State.reset.params.sampleRateHz = 360 ∧
  State.reset.params.baud = 115200 ∧
  State.reset.params.uartFraming = { dataBits := 8, parity := .none, stopBits := 1 }

/-! ### The whole machine -/

/-- Every step keeps the invariant: I1 of R30 (derived by the spec), and that `DAC_OUT` is the last code
written or RESET's 0. -/
def Obligations.EveryStepKeepsTheInvariant : Prop :=
  ∀ s t : State, Inv s → step s = .next t → Inv t

/-- The invariant holds at reset. -/
def Obligations.InvariantHoldsAtReset : Prop := Inv State.reset

/-- Every byte stream, in every interleaving with ticks and resets, is accepted: from a legal `COUNT` each
event goes on to a legal `COUNT`, without fault or refusal (R92, R120, R140). -/
def Obligations.EveryEventStreamIsAccepted : Prop :=
  ∀ (ws : List EventWord) (s : State), s.count ≠ 3 →
    ∃ t, runWords ws s = .next t ∧ t.count ≠ 3

/-- The flow of R2 is one way: taking every tick out of a script changes nothing the framer holds or
publishes. -/
def Obligations.TicksDoNotAffectTheFramer : Prop :=
  ∀ (ws : List EventWord) (s t : State), runWords ws s = .next t →
    ∃ t', runWords (withoutTicks ws) s = .next t' ∧ framerView t' = framerView t ∧
      published (withoutTicks ws) s = published ws s

/-- No event changes a parameter, and no operation reads the timing parameters. R28 says so of `P_SAMPLE_RATE_HZ` and
`P_BAUD`. That the character format is constant rests on R153, and that it is unread on R6 ("timing only"); that
`P_SAMPLE_UPDATE_ATOMIC`, a parameter of R6, stands in the state and is constant too is the model's (DESIGN CHOICE,
log entry 9). -/
def Obligations.ParametersAreFixedAndTimingOnesUnread : Prop :=
  (∀ s t : State, step s = .next t → t.params = s.params) ∧
  (∀ (rate : Rat) (baud : Nat) (format : UartFraming) (s : State),
    nextOf (step (retime rate baud format s)) = (nextOf (step s)).map (retime rate baud format))

/-- The access matrix of R29 (derived by the spec), by operation: the elements it has no W for are unchanged.
RXT has the row of TICK and that of the operation it selects, so at `COUNT` = 2 it keeps `COUNT` unless its byte is
0x00. The script and the parameters are never written, and nothing but a torn RXT moves the draw counter (the
model's own fields; log entries 1, 7 and 9). -/
def Obligations.OperationsWriteOnlyTheirElements : Prop :=
  ∀ (i : Instr) (s t : State), exec i s = .next t →
    t.script = s.script ∧ t.params = s.params ∧
    ((∀ d, i ≠ .rxt d) ∨ s.params.sampleUpdateAtomic = true → t.draws = s.draws) ∧
    (match i with
      | .reset => t.log = s.log
      | .tick => t.count = s.count ∧ t.buf0 = s.buf0 ∧ t.buf1 = s.buf1 ∧ t.sample = s.sample
      | .rxt d => (s.count ≠ 0 → t.buf0 = s.buf0) ∧ (s.count ≠ 1 → t.buf1 = s.buf1) ∧
          (s.count = 2 ∧ d ≠ 0x00 → t.count = s.count) ∧
          (¬ (s.count = 2 ∧ d = 0x00) → t.sample = s.sample) ∧
          (¬ (s.count = 2 ∧ d = 0x00 ∧ s.params.sampleUpdateAtomic = false) → t.draws = s.draws) ∧
          ∃ c, t.log = s.log ++ [c]
      | .rxTerm => t.buf0 = s.buf0 ∧ t.buf1 = s.buf1 ∧ t.dacOut = s.dacOut ∧ t.log = s.log
      | .rxAppend0 _ => t.buf1 = s.buf1 ∧ t.sample = s.sample ∧ t.dacOut = s.dacOut ∧ t.log = s.log
      | .rxAppend1 _ => t.buf0 = s.buf0 ∧ t.sample = s.sample ∧ t.dacOut = s.dacOut ∧ t.log = s.log
      | .rxDrop _ => t.count = s.count ∧ t.buf0 = s.buf0 ∧ t.buf1 = s.buf1 ∧ t.sample = s.sample ∧
          t.dacOut = s.dacOut ∧ t.log = s.log)

/-- A bounded form of the liveness R141 speaks of: a frame sent from `COUNT` = 0 is what the next tick writes,
whatever unpublished bytes and ticks come between, and the peripheral shows `P_DAC_SAT` of its value. -/
def Obligations.FrameIsShownAtTheNextTick : Prop :=
  ∀ (v : Int) (ws : List EventWord) (s m t : State), s.count = 0 → -32768 ≤ v → v ≤ 32767 →
    noReset ws = true → runWords (frameWords v) s = .next m → published ws m = [] →
    runWords (ws ++ [eventWord .tick]) m = .next t →
    t.log.getLast? = some (BitVec.ofInt 16 v) ∧ analogOutput t = Config.dacSat ((v : Rat) / 2048)

/-! ### Ports and timing -/

/-- R125 (the spec's decision D8): in one clock cycle RESET dominates and what coincides with it is lost; a
byte and a tick are one RXT. The port names are decision D2's (log entry 18). -/
def Obligations.ResetDominatesCoincidentInputs : Prop :=
  ∀ (p : PortInputs) (s : State),
    (p.rst = true → clockEdge p s = exec .reset s) ∧
    (p.rst = false → p.rxValid = true → p.tick = true → clockEdge p s = exec (.rxt p.rxData) s)

/-- R159's table for the default parameters: tick period, bit, byte and frame times, and the frame rates. The byte
and frame times and the frame rates rest on the ten bit times of an 8N1 character, which the spec takes from general
knowledge (R159, its K2): PRESUMED, log entry 17. -/
def Obligations.DefaultTimingIsTheTables : Prop :=
  tickPeriod .default = 1 / 360 ∧ bitTime .default = 1 / 115200 ∧
  byteTime .default = 10 / 115200 ∧ frameTime .default = 30 / 115200 ∧
  maxFramesPerSecond .default = 3840 ∧ maxFramesPerTick .default = 32 / 3
end

