-- ==== Sys2Proof/Laws/Encoding.lean ====
section
/-! SUPPORT. The fields of event words and decode keys, and what the decoder answers on each kind of key. -/

namespace Sys2Proof.Laws

/-- A sample is a 16-bit word, as R26 says, and so is a DAC code (R27). -/
theorem sample_is_16_bits : Sample = BitVec 16 := rfl

@[simp] theorem sampleWidth_eq : Config.sampleWidth = 16 := rfl
@[simp] theorem sentinel_eq : Config.sentinel = 0#8 := rfl
@[simp] theorem emptyCount_eq : Config.emptyCount = 0#2 := rfl
@[simp] theorem oneByteCount_eq : Config.oneByteCount = 1#2 := rfl
@[simp] theorem fullCount_eq : Config.fullCount = 2#2 := rfl
@[simp] theorem reservedCount_eq : Config.reservedCount = 3#2 := rfl

/-- `COUNT` has four encodings (R24, R69). -/
theorem count_cases (c : Count) : c = 0#2 ∨ c = 1#2 ∨ c = 2#2 ∨ c = 3#2 := by
  revert c; decide

/-- Every kind is one of the four of R62. -/
theorem kind_cases (k : Kind) : k = kindRx ∨ k = kindTick ∨ k = kindReset ∨ k = kindRxt := by
  revert k; decide

/-! The fields of an event word (R62). -/

theorem mkWord_getLsbD (k : Kind) (d : Byte) (i : Nat) :
    (mkWord k d).getLsbD i = if i < 8 then d.getLsbD i else k.getLsbD (i - 8) :=
  BitVec.getLsbD_append

theorem mkKey_getLsbD (k : Kind) (c : Count) (d : Byte) (i : Nat) :
    (mkKey k c d).getLsbD i =
      if i < 8 then d.getLsbD i else if i - 8 < 2 then c.getLsbD (i - 8) else k.getLsbD (i - 8 - 2) := by
  have h : (mkKey k c d).getLsbD i = if i < 8 then d.getLsbD i else (k ++ c).getLsbD (i - 8) :=
    BitVec.getLsbD_append
  rw [h, BitVec.getLsbD_append]

@[simp] theorem wordKind_mkWord (k : Kind) (d : Byte) : wordKind (mkWord k d) = k := by
  ext i hi
  simp [wordKind, mkWord_getLsbD, hi]

@[simp] theorem wordData_mkWord (k : Kind) (d : Byte) : wordData (mkWord k d) = d := by
  ext i hi
  simp [wordData, mkWord_getLsbD, hi]

@[simp] theorem mkWord_wordKind_wordData (w : EventWord) : mkWord (wordKind w) (wordData w) = w := by
  ext i hi
  rw [← BitVec.getLsbD_eq_getElem, ← BitVec.getLsbD_eq_getElem, mkWord_getLsbD]
  simp only [wordKind, wordData, BitVec.getLsbD_extractLsb']
  split
  · simp_all
  · rw [show 8 + (i - 8) = i by omega]
    simp [show i - 8 < 2 by omega]

/-! The fields of a decode key (R63). -/

@[simp] theorem keyKind_mkKey (k : Kind) (c : Count) (d : Byte) : keyKind (mkKey k c d) = k := by
  ext i hi
  simp [keyKind, mkKey_getLsbD, hi, show ¬ 10 + i < 8 by omega, show ¬ 10 + i - 8 < 2 by omega,
    show 10 + i - 8 - 2 = i by omega]

@[simp] theorem keyCount_mkKey (k : Kind) (c : Count) (d : Byte) : keyCount (mkKey k c d) = c := by
  ext i hi
  simp [keyCount, mkKey_getLsbD, hi]

@[simp] theorem keyData_mkKey (k : Kind) (c : Count) (d : Byte) : keyData (mkKey k c d) = d := by
  ext i hi
  simp [keyData, mkKey_getLsbD, hi]

/-- A key is its three fields. -/
@[simp] theorem mkKey_fields (k : Key) : mkKey (keyKind k) (keyCount k) (keyData k) = k := by
  ext i hi
  rw [← BitVec.getLsbD_eq_getElem, ← BitVec.getLsbD_eq_getElem, mkKey_getLsbD]
  simp only [keyKind, keyCount, keyData, BitVec.getLsbD_extractLsb']
  split
  · simp_all
  · split
    · rw [show 8 + (i - 8) = i by omega]
      simp_all
    · rw [show 10 + (i - 8 - 2) = i by omega]
      simp [show i - 8 - 2 < 2 by omega]

/-- Two keys are equal exactly when their fields are. -/
theorem mkKey_inj {k k' : Kind} {c c' : Count} {d d' : Byte} :
    mkKey k c d = mkKey k' c' d' ↔ k = k' ∧ c = c' ∧ d = d' := by
  constructor
  · intro h
    exact ⟨by simpa using congrArg keyKind h, by simpa using congrArg keyCount h,
      by simpa using congrArg keyData h⟩
  · rintro ⟨rfl, rfl, rfl⟩; rfl

/-- Two event words are equal exactly when their fields are. -/
theorem mkWord_inj {k k' : Kind} {d d' : Byte} : mkWord k d = mkWord k' d' ↔ k = k' ∧ d = d' := by
  constructor
  · intro h
    exact ⟨by simpa using congrArg wordKind h, by simpa using congrArg wordData h⟩
  · rintro ⟨rfl, rfl⟩; rfl

@[simp] theorem keyOf_mkWord (k : Kind) (d : Byte) (c : Count) : keyOf (mkWord k d) c = mkKey k c d := by
  simp [keyOf]

/-! What a row's mask leaves of a key. -/

theorem mkKey_and (k k' : Kind) (c c' : Count) (d d' : Byte) :
    mkKey k c d &&& mkKey k' c' d' = mkKey (k &&& k') (c &&& c') (d &&& d') := by
  ext i hi
  simp only [← BitVec.getLsbD_eq_getElem, mkKey_getLsbD, BitVec.getLsbD_and]
  split
  · rfl
  · split <;> rfl

theorem kindMask_eq : (3072#12 : Key) = mkKey 3 0 0 := by decide
theorem countMask_eq : (3840#12 : Key) = mkKey 3 3 0 := by decide
theorem fullMask_eq : (4095#12 : Key) = mkKey 3 3 0xFF := by decide

theorem kind_and_ones (k : Kind) : k &&& 3#2 = k := by revert k; decide
theorem byte_and_ones (d : Byte) : d &&& 255#8 = d := BitVec.and_allOnes

/-- A key under the mask of its kind bits. -/
theorem mkKey_kindMask (k : Kind) (c : Count) (d : Byte) : mkKey k c d &&& 3072#12 = mkKey k 0 0 := by
  rw [kindMask_eq, mkKey_and]; simp [kind_and_ones]

/-- A key under the mask of its kind and `COUNT` bits. -/
theorem mkKey_countMask (k : Kind) (c : Count) (d : Byte) : mkKey k c d &&& 3840#12 = mkKey k c 0 := by
  rw [countMask_eq, mkKey_and]; simp [kind_and_ones]

/-- A key under the mask of all its bits. -/
theorem mkKey_fullMask (k : Kind) (c : Count) (d : Byte) : mkKey k c d &&& 4095#12 = mkKey k c d := by
  rw [fullMask_eq, mkKey_and]; simp [kind_and_ones, byte_and_ones]

/-! The decoder's answer on each kind of key (R64). -/

/-- The rows of R64 tried one after the other. -/
theorem decodeKey_mkKey (k : Kind) (c : Count) (d : Byte) :
    decodeKey (mkKey k c d) =
      if k = kindReset then .ok .reset
      else if k = kindTick then .ok .tick
      else if k = kindRxt ∧ c ≠ 3#2 then .ok (.rxt d)
      else if k = kindRx ∧ c = 2#2 ∧ d = 0#8 then .ok .rxTerm
      else if k = kindRx ∧ c = 0#2 then .ok (.rxAppend0 d)
      else if k = kindRx ∧ c = 1#2 then .ok (.rxAppend1 d)
      else if k = kindRx ∧ c = 2#2 then .ok (.rxDrop d)
      else .error .count3 := by
  simp only [decodeKey, rows, Row.accepts, List.find?_cons, List.find?_nil, BitVec.ofNat_eq_ofNat,
    mkKey_kindMask, mkKey_countMask, mkKey_fullMask, beq_eq_decide, mkKey_inj]
  rcases kind_cases k with rfl | rfl | rfl | rfl <;> rcases count_cases c with rfl | rfl | rfl | rfl <;>
    by_cases hd : d = 0#8 <;> simp [kindRx, kindTick, kindReset, kindRxt, Op.instr, hd]

/-- Row 1 of R64: `COUNT` and the data bits are ignored. -/
@[simp] theorem decodeKey_reset (c : Count) (d : Byte) : decodeKey (mkKey kindReset c d) = .ok .reset := by
  simp [decodeKey_mkKey]

/-- Row 2 of R64: `COUNT` and the data bits are ignored. -/
@[simp] theorem decodeKey_tick (c : Count) (d : Byte) : decodeKey (mkKey kindTick c d) = .ok .tick := by
  simp [decodeKey_mkKey, kindTick, kindReset]

/-- Rows 3 and 8 of R64. -/
theorem decodeKey_rxt (c : Count) (d : Byte) :
    decodeKey (mkKey kindRxt c d) = if c = 3#2 then .error .count3 else .ok (.rxt d) := by
  rcases count_cases c with rfl | rfl | rfl | rfl <;>
    simp [decodeKey_mkKey, kindRxt, kindTick, kindReset, kindRx]

/-- Rows 4 to 8 of R64. -/
theorem decodeKey_rx (c : Count) (d : Byte) :
    decodeKey (mkKey kindRx c d) =
      if c = 0#2 then .ok (.rxAppend0 d)
      else if c = 1#2 then .ok (.rxAppend1 d)
      else if c = 2#2 then (if d = 0#8 then .ok .rxTerm else .ok (.rxDrop d))
      else .error .count3 := by
  rcases count_cases c with rfl | rfl | rfl | rfl <;>
    simp [decodeKey_mkKey, kindRxt, kindTick, kindReset, kindRx]

end Sys2Proof.Laws
end

