-- ==== Sys2Proof/Laws/State.lean ====
section
/-! SUPPORT. For each operation over the state, what every field holds after it. -/

namespace Sys2Proof.Machine

@[simp] theorem appendFirst_count (d : Byte) (s : State) : (appendFirst d s).count = Config.oneByteCount := rfl
@[simp] theorem appendFirst_buf0 (d : Byte) (s : State) : (appendFirst d s).buf0 = d := rfl
@[simp] theorem appendFirst_buf1 (d : Byte) (s : State) : (appendFirst d s).buf1 = s.buf1 := rfl
@[simp] theorem appendFirst_sample (d : Byte) (s : State) : (appendFirst d s).sample = s.sample := rfl
@[simp] theorem appendFirst_dacOut (d : Byte) (s : State) : (appendFirst d s).dacOut = s.dacOut := rfl
@[simp] theorem appendFirst_log (d : Byte) (s : State) : (appendFirst d s).log = s.log := rfl
@[simp] theorem appendFirst_script (d : Byte) (s : State) : (appendFirst d s).script = s.script := rfl
@[simp] theorem appendFirst_draws (d : Byte) (s : State) : (appendFirst d s).draws = s.draws := rfl
@[simp] theorem appendFirst_params (d : Byte) (s : State) : (appendFirst d s).params = s.params := rfl

@[simp] theorem appendSecond_count (d : Byte) (s : State) : (appendSecond d s).count = Config.fullCount := rfl
@[simp] theorem appendSecond_buf0 (d : Byte) (s : State) : (appendSecond d s).buf0 = s.buf0 := rfl
@[simp] theorem appendSecond_buf1 (d : Byte) (s : State) : (appendSecond d s).buf1 = d := rfl
@[simp] theorem appendSecond_sample (d : Byte) (s : State) : (appendSecond d s).sample = s.sample := rfl
@[simp] theorem appendSecond_dacOut (d : Byte) (s : State) : (appendSecond d s).dacOut = s.dacOut := rfl
@[simp] theorem appendSecond_log (d : Byte) (s : State) : (appendSecond d s).log = s.log := rfl
@[simp] theorem appendSecond_script (d : Byte) (s : State) : (appendSecond d s).script = s.script := rfl
@[simp] theorem appendSecond_draws (d : Byte) (s : State) : (appendSecond d s).draws = s.draws := rfl
@[simp] theorem appendSecond_params (d : Byte) (s : State) : (appendSecond d s).params = s.params := rfl

@[simp] theorem publish_count (s : State) : (publish s).count = Config.emptyCount := rfl
@[simp] theorem publish_buf0 (s : State) : (publish s).buf0 = s.buf0 := rfl
@[simp] theorem publish_buf1 (s : State) : (publish s).buf1 = s.buf1 := rfl
@[simp] theorem publish_sample (s : State) : (publish s).sample = assemble s.buf1 s.buf0 := rfl
@[simp] theorem publish_dacOut (s : State) : (publish s).dacOut = s.dacOut := rfl
@[simp] theorem publish_log (s : State) : (publish s).log = s.log := rfl
@[simp] theorem publish_script (s : State) : (publish s).script = s.script := rfl
@[simp] theorem publish_draws (s : State) : (publish s).draws = s.draws := rfl
@[simp] theorem publish_params (s : State) : (publish s).params = s.params := rfl

@[simp] theorem dacWrite_count (c : Sample) (s : State) : (dacWrite c s).count = s.count := rfl
@[simp] theorem dacWrite_buf0 (c : Sample) (s : State) : (dacWrite c s).buf0 = s.buf0 := rfl
@[simp] theorem dacWrite_buf1 (c : Sample) (s : State) : (dacWrite c s).buf1 = s.buf1 := rfl
@[simp] theorem dacWrite_sample (c : Sample) (s : State) : (dacWrite c s).sample = s.sample := rfl
@[simp] theorem dacWrite_dacOut (c : Sample) (s : State) : (dacWrite c s).dacOut = c := rfl
@[simp] theorem dacWrite_log (c : Sample) (s : State) : (dacWrite c s).log = s.log ++ [c] := rfl
@[simp] theorem dacWrite_script (c : Sample) (s : State) : (dacWrite c s).script = s.script := rfl
@[simp] theorem dacWrite_draws (c : Sample) (s : State) : (dacWrite c s).draws = s.draws := rfl
@[simp] theorem dacWrite_params (c : Sample) (s : State) : (dacWrite c s).params = s.params := rfl

@[simp] theorem countDraw_count (op : RxOp) (s : State) : (countDraw op s).count = s.count := rfl
@[simp] theorem countDraw_buf0 (op : RxOp) (s : State) : (countDraw op s).buf0 = s.buf0 := rfl
@[simp] theorem countDraw_buf1 (op : RxOp) (s : State) : (countDraw op s).buf1 = s.buf1 := rfl
@[simp] theorem countDraw_sample (op : RxOp) (s : State) : (countDraw op s).sample = s.sample := rfl
@[simp] theorem countDraw_dacOut (op : RxOp) (s : State) : (countDraw op s).dacOut = s.dacOut := rfl
@[simp] theorem countDraw_log (op : RxOp) (s : State) : (countDraw op s).log = s.log := rfl
@[simp] theorem countDraw_script (op : RxOp) (s : State) : (countDraw op s).script = s.script := rfl
@[simp] theorem countDraw_draws (op : RxOp) (s : State) : (countDraw op s).draws = (if tears op s then s.draws + 1 else s.draws) := rfl
@[simp] theorem countDraw_params (op : RxOp) (s : State) : (countDraw op s).params = s.params := rfl

@[simp] theorem resetBlock_count (s : State) : (resetBlock s).count = Config.emptyCount := rfl
@[simp] theorem resetBlock_buf0 (s : State) : (resetBlock s).buf0 = 0x00 := rfl
@[simp] theorem resetBlock_buf1 (s : State) : (resetBlock s).buf1 = 0x00 := rfl
@[simp] theorem resetBlock_sample (s : State) : (resetBlock s).sample = 0x0000 := rfl
@[simp] theorem resetBlock_dacOut (s : State) : (resetBlock s).dacOut = 0x0000 := rfl
@[simp] theorem resetBlock_log (s : State) : (resetBlock s).log = s.log := rfl
@[simp] theorem resetBlock_script (s : State) : (resetBlock s).script = s.script := rfl
@[simp] theorem resetBlock_draws (s : State) : (resetBlock s).draws = s.draws := rfl
@[simp] theorem resetBlock_params (s : State) : (resetBlock s).params = s.params := rfl

@[simp] theorem dropByte_eq (s : State) : dropByte s = s := rfl

end Sys2Proof.Machine
end

