-- ==== Sys2Proof/Laws/Operations.lean ====
section
/-! SUPPORT. What each shared operation can do, said once. -/

namespace Sys2Proof.Machine

open Sys2Proof.Laws

/-! Operands. -/

/-- The framer operation selected, byte by byte and `COUNT` by `COUNT` (R85). -/
theorem selectRx_eq (d : Byte) (c : Count) :
    selectRx d c =
      if c = 0#2 then some .append0
      else if c = 1#2 then some .append1
      else if c = 2#2 then (if d = 0#8 then some .term else some .drop)
      else none := by
  rcases count_cases c with rfl | rfl | rfl | rfl <;> by_cases hd : d = 0#8 <;> simp [selectRx, hd]

@[simp] theorem selectRx_empty (d : Byte) : selectRx d 0#2 = some .append0 := by simp [selectRx_eq]
@[simp] theorem selectRx_oneByte (d : Byte) : selectRx d 1#2 = some .append1 := by simp [selectRx_eq]
@[simp] theorem selectRx_reserved (d : Byte) : selectRx d 3#2 = none := by simp [selectRx_eq]
@[simp] theorem selectRx_full_sentinel : selectRx 0#8 2#2 = some .term := by simp [selectRx_eq]
theorem selectRx_full_data {d : Byte} (h : d ≠ 0#8) : selectRx d 2#2 = some .drop := by
  simp [selectRx_eq, h]

/-- What a selected framer operation says of the byte and of `COUNT`. -/
theorem selectRx_some {d : Byte} {c : Count} {op : RxOp} (h : selectRx d c = some op) :
    (op = .append0 ∧ c = 0#2) ∨ (op = .append1 ∧ c = 1#2) ∨
      (op = .term ∧ c = 2#2 ∧ d = 0#8) ∨ (op = .drop ∧ c = 2#2 ∧ d ≠ 0#8) := by
  rcases count_cases c with rfl | rfl | rfl | rfl <;> by_cases hd : d = 0#8 <;>
    simp_all [selectRx_eq]

/-- No framer operation is selected exactly at the reserved `COUNT`. -/
theorem selectRx_none {d : Byte} {c : Count} : selectRx d c = none ↔ c = 3#2 := by
  rcases count_cases c with rfl | rfl | rfl | rfl <;> by_cases hd : d = 0#8 <;> simp [selectRx_eq, hd]

/-! The bytes of a sample (R41). -/

theorem assemble_getLsbD (b1 b0 : Byte) (i : Nat) :
    (assemble b1 b0).getLsbD i = if i < 8 then b0.getLsbD i else b1.getLsbD (i - 8) :=
  BitVec.getLsbD_append

@[simp] theorem lowByte_assemble (b1 b0 : Byte) : lowByte (assemble b1 b0) = b0 := by
  ext i hi
  simp [lowByte, assemble_getLsbD, hi]

@[simp] theorem highByte_assemble (b1 b0 : Byte) : highByte (assemble b1 b0) = b1 := by
  ext i hi
  simp [highByte, assemble_getLsbD, hi]

/-- A sample is its two bytes. -/
@[simp] theorem assemble_bytes (v : Sample) : assemble (highByte v) (lowByte v) = v := by
  ext i hi
  rw [← BitVec.getLsbD_eq_getElem, ← BitVec.getLsbD_eq_getElem, assemble_getLsbD]
  simp only [lowByte, highByte, BitVec.getLsbD_extractLsb']
  split
  · simp_all
  · rw [show 8 + (i - 8) = i by omega]
    simp [show i - 8 < 8 by rw [sampleWidth_eq] at hi; omega]

/-- The value of an assembled sample, read as unsigned (R65). -/
theorem assemble_toNat (b1 b0 : Byte) : (assemble b1 b0).toNat = b1.toNat * 256 + b0.toNat := by
  have h : (assemble b1 b0).toNat = b1.toNat <<< 8 ||| b0.toNat := BitVec.toNat_append b1 b0
  rw [h, Nat.shiftLeft_eq, Nat.mul_comm, ← Nat.two_pow_add_eq_or_of_lt b0.isLt]

/-! The framer's operations on the state. -/

@[simp] theorem performRx_append0 (d : Byte) (s : State) : performRx .append0 d s = appendFirst d s := rfl
@[simp] theorem performRx_append1 (d : Byte) (s : State) : performRx .append1 d s = appendSecond d s := rfl
@[simp] theorem performRx_term (d : Byte) (s : State) : performRx .term d s = publish s := rfl
@[simp] theorem performRx_drop (d : Byte) (s : State) : performRx .drop d s = s := rfl

/-- A framer operation leaves `DAC_OUT`, the log, the script, the draws and the parameters (R29). -/
theorem performRx_frame (op : RxOp) (d : Byte) (s : State) :
    (performRx op d s).dacOut = s.dacOut ∧ (performRx op d s).log = s.log ∧
      (performRx op d s).script = s.script ∧ (performRx op d s).draws = s.draws ∧
      (performRx op d s).params = s.params := by
  cases op <;> simp

/-- A tick is torn only where it meets an RX_TERM and the update is not atomic (R45). -/
theorem tears_iff {op : RxOp} {s : State} :
    tears op s = true ↔ op = .term ∧ s.params.sampleUpdateAtomic = false := by
  cases op <;> simp [tears]

/-- A tick that is not torn reads `SAMPLE` (R124). -/
theorem coincidentCode_whole {op : RxOp} {s : State} (h : tears op s = false) :
    coincidentCode op s = s.sample := by simp [coincidentCode, h]

/-- A torn tick reads a mixture of the bytes of the old and the new sample (R45). -/
theorem coincidentCode_torn {op : RxOp} {s : State} (h : tears op s = true) :
    coincidentCode op s =
      tornMix (Config.tornLowIsNew s.draws) (Config.tornHighIsNew s.draws) s.sample
        (assemble s.buf1 s.buf0) := by simp [coincidentCode, h]

/-- The bytes of a torn value (R45). -/
theorem tornMix_bytes (l h : Bool) (old new : Sample) :
    lowByte (tornMix l h old new) = (if l then lowByte new else lowByte old) ∧
      highByte (tornMix l h old new) = (if h then highByte new else highByte old) := by
  simp [tornMix]

/-! The meanings. -/

theorem exec_rxt_of_select {d : Byte} {s : State} {op : RxOp} (h : selectRx d s.count = some op) :
    exec (.rxt d) s = .next (performRx op d (dacWrite (coincidentCode op s) (countDraw op s))) := by
  simp [exec, execRxt, h]

end Sys2Proof.Machine
end

