-- ==== Sys2Proof/Laws/Delivery.lean ====
section
/-! SUPPORT. What one event, one step and one run of events can do. -/

namespace Sys2Proof.Machine

open Sys2Proof.Laws

/-- An RX event performs the framer operation its byte and `COUNT` select, or faults where there is none. -/
theorem perform_rx (d : Byte) (s : State) :
    perform (mkWord kindRx d) s =
      match selectRx d s.count with
      | some op => .next (performRx op d s)
      | none => .fault (.unreachable .count3) := by
  rw [perform, fetchKey, keyOf_mkWord, decodeKey_rx, selectRx_eq]
  rcases count_cases s.count with h | h | h | h <;> by_cases hd : d = 0#8 <;>
    simp [h, hd, exec, execRxAppend0, execRxAppend1, execRxTerm, execRxDrop]

/-- An RXT event is RXT's meaning, which faults by itself where decoding does. -/
theorem perform_rxt (d : Byte) (s : State) : perform (mkWord kindRxt d) s = exec (.rxt d) s := by
  rw [perform, fetchKey, keyOf_mkWord, decodeKey_rxt]
  by_cases h : s.count = 3#2 <;> simp [h, exec, execRxt]

/-- A TICK event, whatever its data bits. -/
@[simp] theorem perform_tick (d : Byte) (s : State) :
    perform (mkWord kindTick d) s = .next (dacWrite s.sample s) := by
  simp [perform, fetchKey, exec, execTick]

/-- A RESET event, whatever its data bits. -/
@[simp] theorem perform_reset (d : Byte) (s : State) :
    perform (mkWord kindReset d) s = .next (resetBlock s) := by
  simp [perform, fetchKey, exec, execReset]

/-- Everything an event that goes on can have done. -/
theorem perform_cases {w : EventWord} {s t : State} (h : perform w s = .next t) :
    (wordKind w = kindReset ∧ t = resetBlock s) ∨
      (wordKind w = kindTick ∧ t = dacWrite s.sample s) ∨
      (wordKind w = kindRx ∧ ∃ op, selectRx (wordData w) s.count = some op ∧
        t = performRx op (wordData w) s) ∨
      (wordKind w = kindRxt ∧ ∃ op, selectRx (wordData w) s.count = some op ∧
        t = performRx op (wordData w) (dacWrite (coincidentCode op s) (countDraw op s))) := by
  rw [← mkWord_wordKind_wordData w] at h
  rcases kind_cases (wordKind w) with hk | hk | hk | hk <;> rw [hk] at h
  · rw [perform_rx] at h
    cases hs : selectRx (wordData w) s.count with
    | none => simp [hs] at h
    | some op => simp [hs] at h; exact .inr (.inr (.inl ⟨hk, op, rfl, h.symm⟩))
  · rw [perform_tick] at h; cases h; exact .inr (.inl ⟨hk, rfl⟩)
  · rw [perform_reset] at h; cases h; exact .inl ⟨hk, rfl⟩
  · rw [perform_rxt] at h
    cases hs : selectRx (wordData w) s.count with
    | none => simp [exec, execRxt, hs] at h
    | some op => simp [exec, execRxt, hs] at h; exact .inr (.inr (.inr ⟨hk, op, rfl, h.symm⟩))

/-! An RX event at each `COUNT` (R85). -/

theorem perform_rx_empty {s : State} (d : Byte) (h : s.count = 0#2) :
    perform (eventWord (.rx d)) s = .next (appendFirst d s) := by
  rw [eventWord, perform_rx, h]; simp

theorem perform_rx_oneByte {s : State} (d : Byte) (h : s.count = 1#2) :
    perform (eventWord (.rx d)) s = .next (appendSecond d s) := by
  rw [eventWord, perform_rx, h]; simp

theorem perform_rx_full_sentinel {s : State} (h : s.count = 2#2) :
    perform (eventWord (.rx 0#8)) s = .next (publish s) := by
  rw [eventWord, perform_rx, h]; simp

theorem perform_rx_full_data {s : State} {d : Byte} (h : s.count = 2#2) (hd : d ≠ 0#8) :
    perform (eventWord (.rx d)) s = .next s := by
  rw [eventWord, perform_rx, h]; simp [selectRx_eq, hd]

/-- The script an event is performed with passes through it unread (log entry 1). -/
theorem perform_script (w : EventWord) (s : State) (ws : List EventWord) :
    perform w { s with script := ws } =
      match perform w s with
      | .next t => .next { t with script := ws }
      | .fault r => .fault r
      | .refused r => .refused r := by
  have hk : fetchKey w { s with script := ws } = fetchKey w s := rfl
  simp only [perform, hk]
  cases decodeKey (fetchKey w s) with
  | error r => rfl
  | ok i =>
    cases i with
    | rxt d =>
      simp only [exec, execRxt]
      cases selectRx d s.count with
      | none => rfl
      | some op => cases op <;> rfl
    | _ => rfl

/-- No event is refused. -/
theorem perform_not_refused (w : EventWord) (s : State) (r : Refusal) : perform w s ≠ .refused r := by
  rw [← mkWord_wordKind_wordData w]
  rcases kind_cases (wordKind w) with hk | hk | hk | hk <;> rw [hk]
  · rw [perform_rx]; cases selectRx (wordData w) s.count <;> simp
  · simp
  · simp
  · rw [perform_rxt]; cases hs : selectRx (wordData w) s.count <;> simp [exec, execRxt, hs]

/-! Runs. -/

@[simp] theorem runWords_nil (s : State) : runWords [] s = .next s := rfl

theorem runWords_cons_of_next {w : EventWord} {ws : List EventWord} {s t : State}
    (h : perform w s = .next t) : runWords (w :: ws) s = runWords ws t := by simp [runWords, h]

/-- A run that goes on is one event that goes on, and a run. -/
theorem runWords_cons_next {w : EventWord} {ws : List EventWord} {s t : State}
    (h : runWords (w :: ws) s = .next t) : ∃ m, perform w s = .next m ∧ runWords ws m = .next t := by
  cases hp : perform w s with
  | next m => exact ⟨m, rfl, by simpa [runWords, hp] using h⟩
  | fault r => simp [runWords, hp] at h
  | refused r => simp [runWords, hp] at h

/-- A run over two scripts, one after the other. -/
theorem runWords_append_next {us ws : List EventWord} {s t : State} :
    runWords (us ++ ws) s = .next t ↔ ∃ m, runWords us s = .next m ∧ runWords ws m = .next t := by
  induction us generalizing s with
  | nil => simp
  | cons u us ih =>
    simp only [List.cons_append, runWords]
    cases perform u s <;> simp [ih]

/-! The step. -/

/-- The step with no event left. -/
theorem step_idle {s : State} (h : s.script = []) : step s = .next s := by simp [step, deliver, h, wait]

/-- The step with an event to deliver. -/
theorem step_event {s : State} {w : EventWord} {ws : List EventWord} (h : s.script = w :: ws) :
    step s = perform w { s with script := ws } := by simp [step, deliver, h]

end Sys2Proof.Machine
end

