-- ==== Sys2Proof/Laws/PerInstr.lean ====
section
/-! SUPPORT. For each operation, the fields of its encoding (R62, R63). -/

namespace Sys2Proof.Laws.EncodedFields

/-- The kind bits of the operation's event. -/
def kind : Instr → Kind
  | .reset => kindReset
  | .tick => kindTick
  | .rxt _ => kindRxt
  | .rxTerm => kindRx
  | .rxAppend0 _ => kindRx
  | .rxAppend1 _ => kindRx
  | .rxDrop _ => kindRx

/-- The data bits of the operation's canonical event word. -/
def data : Instr → Byte
  | .reset => 0
  | .tick => 0
  | .rxt d => d
  | .rxTerm => Config.sentinel
  | .rxAppend0 d => d
  | .rxAppend1 d => d
  | .rxDrop d => d

/-- The key of the operation at any `COUNT` is that `COUNT` between its kind and data bits. -/
def Statement (i : Instr) : Prop := ∀ c : Count, encode i c = mkKey (kind i) c (data i)

theorem reset : Statement .reset := by intro c; simp [encode, encodeEvent, Instr.event, eventWord, kind, data]
theorem tick : Statement .tick := by intro c; simp [encode, encodeEvent, Instr.event, eventWord, kind, data]
theorem rxt (d : Byte) : Statement (.rxt d) := by
  intro c; simp [encode, encodeEvent, Instr.event, eventWord, kind, data]
theorem rxTerm : Statement .rxTerm := by
  intro c; simp [encode, encodeEvent, Instr.event, eventWord, kind, data]
theorem rxAppend0 (d : Byte) : Statement (.rxAppend0 d) := by
  intro c; simp [encode, encodeEvent, Instr.event, eventWord, kind, data]
theorem rxAppend1 (d : Byte) : Statement (.rxAppend1 d) := by
  intro c; simp [encode, encodeEvent, Instr.event, eventWord, kind, data]
theorem rxDrop (d : Byte) : Statement (.rxDrop d) := by
  intro c; simp [encode, encodeEvent, Instr.event, eventWord, kind, data]

end Sys2Proof.Laws.EncodedFields
end

