-- ==== Sys2Proof/Laws/Runs.lean ====
section
/-! SUPPORT. The lists a run is described by, event by event and run after run. -/

namespace Sys2Proof.Machine

open Sys2Proof.Laws

/-- An event publishes exactly where its RX part is a sentinel that meets a full buffer. -/
theorem publishes_iff {w : EventWord} {s : State} :
    publishes w s = true ↔
      (wordKind w = kindRx ∨ wordKind w = kindRxt) ∧ wordData w = 0#8 ∧ s.count = 2#2 := by
  simp [publishes, hasByte, and_assoc]

theorem publishes_rx (d : Byte) (s : State) :
    publishes (eventWord (.rx d)) s = (d == 0#8 && s.count == 2#2) := by
  simp [publishes, hasByte, eventWord]

theorem published_cons {w : EventWord} {ws : List EventWord} {s t : State} (h : perform w s = .next t) :
    published (w :: ws) s = (if publishes w s then [t.sample] else []) ++ published ws t := by
  simp [published, h]

/-- What two scripts publish, one after the other. -/
theorem published_append {us ws : List EventWord} {s m : State} (h : runWords us s = .next m) :
    published (us ++ ws) s = published us s ++ published ws m := by
  induction us generalizing s with
  | nil => cases h; rfl
  | cons u us ih =>
    obtain ⟨k, hp, h⟩ := runWords_cons_next h
    simp [published_cons hp, ih h]

/-- The word of `FRAME v` is `v`, read as signed (R65, R74). -/
theorem sampleOfInt_toInt {v : Int} (h : -32768 ≤ v) (h' : v ≤ 32767) : (sampleOfInt v).toInt = v := by
  rw [sampleOfInt, BitVec.toInt_ofInt, sampleWidth_eq]
  exact Int.bmod_eq_of_le (by omega) (by omega)

theorem noReset_cons {w : EventWord} {ws : List EventWord} :
    noReset (w :: ws) = true ↔ wordKind w ≠ kindReset ∧ noReset ws = true := by
  simp [noReset, isReset]

theorem tickCount_cons (w : EventWord) (ws : List EventWord) :
    tickCount (w :: ws) = tickCount ws + if hasTick w then 1 else 0 := by
  simp [tickCount, List.countP_cons]

end Sys2Proof.Machine
end

