-- ==== Sys2Proof/Tests/Slice0.lean ====
section
/-! SUPPORT. Tests: the checks of WellFormed, words written out from the spec's encodings, one step of each
operation with the results of spec/95, and, for each statement with hypotheses, states and operands that meet
them. -/

namespace Sys2Proof.Tests

open Sys2Proof.Machine

/-- The reset state with other framer contents. -/
def st (c : Count) (b0 b1 : Byte) (v : Sample) : State :=
  { State.reset with count := c, buf0 := b0, buf1 := b1, sample := v }

/-- The same state of an implementation whose update of `SAMPLE` is not atomic. -/
def nonAtomic (s : State) : State := { s with params := { s.params with sampleUpdateAtomic := false } }

/-! ### WellFormed: each check refuses an ill-formed or disabled term -/

theorem test_drop_of_the_sentinel_is_ill_formed : (Instr.rxDrop 0x00).wf = false := by decide
theorem test_drop_of_data_is_well_formed : (Instr.rxDrop 0x56).wf = true := by decide
theorem test_rxt_is_disabled_at_count3 : (Instr.rxt 0x12).enabledAt 3 = false := by decide
theorem test_term_is_disabled_below_full : (Instr.rxTerm).enabledAt 1 = false := by decide
theorem test_append0_is_disabled_at_one : (Instr.rxAppend0 0x12).enabledAt 1 = false := by decide
theorem test_append1_is_disabled_at_zero : (Instr.rxAppend1 0x12).enabledAt 0 = false := by decide
theorem test_drop_is_disabled_at_zero : (Instr.rxDrop 0x12).enabledAt 0 = false := by decide
theorem test_frame_domain_ends_at_32767 : (ScriptLine.frame 32768).wf = false := by decide
theorem test_rxs_needs_a_byte : (ScriptLine.rxs []).wf = false := by decide

/-! ### Decode: keys written from R64's patterns, words from R62 and the programs of spec/95 -/

theorem test_decode_reset : decodeTableWord 16 0b1000_0000_0000 = some .reset := by decide
theorem test_decode_reset_ignores : decodeTableWord 16 0b1011_1010_0101 = some .reset := by decide
theorem test_decode_tick : decodeTableWord 16 0b0100_0000_0000 = some .tick := by decide
theorem test_decode_rxt : decodeTableWord 16 0b1101_0011_0100 = some (.rxt 0x34) := by decide
theorem test_decode_term : decodeTableWord 16 0b0010_0000_0000 = some .rxTerm := by decide
theorem test_decode_append0 : decodeTableWord 16 0b0000_0011_0100 = some (.rxAppend0 0x34) := by decide
theorem test_decode_append1 : decodeTableWord 16 0b0001_0001_0010 = some (.rxAppend1 0x12) := by decide
theorem test_decode_drop : decodeTableWord 16 0b0010_0101_0110 = some (.rxDrop 0x56) := by decide
theorem test_decode_rx_rejects_count3 :
    decodeBits 16 0b0011_0000_0000 = .error (.unreachable .count3) := by rfl
theorem test_decode_rxt_rejects_count3 :
    decodeBits 16 0b1111_0011_0100 = .error (.unreachable .count3) := by rfl
theorem test_decode_rejects_high_bits : decodeBits 16 0b1_0000_0000_0000 = .error .notAKey := by rfl
theorem test_words_of_script_lines :
    scriptWords [.reset, .tick, .rx 0xCD, .rxt 0x00, .frame (-2048), .rxs [0x12], .ticks 2] =
      [0x200, 0x100, 0x0CD, 0x300, 0x000, 0x0F8, 0x000, 0x012, 0x100, 0x100] := by decide
theorem test_frame_of_0x0123 : frameWords 0x0123 = [0x023, 0x001, 0x000] := by decide
theorem test_text_of_rx : eventText (.rx 0xCD) = "RX 0xCD".toList := by decide
theorem test_text_of_rxt : eventText (.rxt 0x05) = "RXT 0x05".toList := by decide
theorem test_read_rx_with_comment : readLine "RX 0xf8 ; byte1".toList = some [.rx 0xF8] := by decide
theorem test_read_negative_frame : readLine "FRAME -2048".toList = some [.frame (-2048)] := by decide
theorem test_read_hex_frame : readLine "FRAME 0x1200".toList = some [.frame 0x1200] := by decide
theorem test_read_rxs : readLine "RXS 0x05, 0x00, 0x00".toList = some [.rxs [0x05, 0x00, 0x00]] := by decide
theorem test_read_ticks : readLine "TICKS 4".toList = some [.ticks 4] := by decide
theorem test_read_comment : readLine "; nothing".toList = some [] := by decide
theorem test_read_rejects_a_long_byte : readLine "RX 0x100".toList = none := by decide
theorem test_read_rejects_an_unknown_word : readLine "RXX 0x10".toList = none := by decide

/-- R64's rows 4 to 7 are matched in order: RX_DROP's pattern with data 0x00 is RX_TERM. -/
theorem test_first_row_wins :
    (rows.filter (fun r => r.accepts 0x200)).map Row.op = [.rxTerm, .rxDrop] := by decide

/-! ### One step of each operation (spec/95 sections 2.1 to 2.6) -/

theorem test_append0_takes_zero_as_data :
    (nextOf (exec (.rxAppend0 0x00) (st 0 0x77 0x88 0x1111))) = some (st 1 0x00 0x88 0x1111) := by decide
theorem test_append1_takes_zero_as_data :
    (nextOf (exec (.rxAppend1 0x00) (st 1 0x05 0x99 0x2222))) = some (st 2 0x05 0x00 0x2222) := by decide
theorem test_term_low_byte_first :
    (nextOf (exec .rxTerm (st 2 0x34 0x12 0x0000))) = some (st 0 0x34 0x12 0x1234) := by decide
theorem test_term_most_negative :
    ((nextOf (exec .rxTerm (st 2 0x00 0x80 0x0000))).map (·.sample.toInt)) = some (-32768) := by decide
theorem test_drop_changes_nothing :
    (nextOf (exec (.rxDrop 0x56) (st 2 0x34 0x12 0x0000))) = some (st 2 0x34 0x12 0x0000) := by decide
theorem test_tick_writes_unclamped :
    (nextOf (exec .tick (st 0 0x00 0x80 0x8000))).map (fun t => (t.dacOut, t.log)) =
      some (0x8000, [0x8000]) := by decide
theorem test_rxt_atomic_sees_the_old_sample :
    (nextOf (exec (.rxt 0x00) (st 2 0x00 0x01 0x00FF))).map (fun t => (t.log, t.count, t.sample)) =
      some ([0x00FF], 0, 0x0100) := by decide
theorem test_rxt_torn_is_one_of_four :
    ∃ c ∈ ([0x00FF, 0x0100, 0x0000, 0x01FF] : List Sample),
      (nextOf (exec (.rxt 0x00) (nonAtomic (st 2 0x00 0x01 0x00FF)))).map
        (fun t => (t.log, t.count, t.sample)) = some ([c], 0, 0x0100) := by
  have h : ∀ l h : Bool, tornMix l h 0x00FF 0x0100 ∈ ([0x00FF, 0x0100, 0x0000, 0x01FF] : List Sample) := by
    decide
  exact ⟨_, h (Config.tornLowIsNew 0) (Config.tornHighIsNew 0), rfl⟩
theorem test_reset_keeps_the_log :
    (nextOf (exec .reset { st 1 0x34 0x00 0x1234 with dacOut := 0x1234, log := [0x1234] })) =
      some { State.reset with log := [0x1234] } := by decide
theorem test_reset_twice :
    ((nextOf (exec .reset State.reset))) = some State.reset := by decide
theorem test_rx_at_count3_faults :
    perform (eventWord (.rx 0x00)) (st 3 0x00 0x00 0x0000) = .fault (.unreachable .count3) := by rfl
theorem test_step_takes_the_placed_key :
    nextOf (step (State.reset.withFetchWord 16 0b0001_0001_0010)) =
      some (st 2 0x00 0x12 0x0000) := by decide
theorem test_ports_reset_dominates :
    arbitrate { rst := true, rxValid := true, rxData := 0x34, tick := true } = some 0x200 := by decide

/-! ### The hypotheses of the statements are met -/

theorem witness_DecodeInvertsEncode :
    (Instr.rxDrop 0xFF).wf = true ∧ (Instr.rxDrop 0xFF).enabledAt 2 = true ∧
      (Instr.rxt 0x00).wf = true ∧ (Instr.rxt 0x00).enabledAt 2 = true := by decide

theorem witness_DecodedKeyIsTheOperationsKey :
    decodeKey 0x2FF = .ok (.rxDrop 0xFF) ∧ keyKind 0x2FF = kindRx ∧
      decodeKey 0xE00 = .ok (.rxt 0x00) ∧ keyKind 0xE00 = kindRxt := ⟨rfl, by decide, rfl, by decide⟩

theorem witness_EveryByteHasExactlyOneOperation : (2 : Count) ≠ 3 ∧ (0 : Count) ≠ 3 := by decide

theorem witness_FrameBytesAreTheSampleLowFirst :
    (-32768 : Int) ≤ -32768 ∧ (-32768 : Int) ≤ 32767 ∧ (32767 : Int) ≤ 32767 := by decide

theorem witness_EventWordsFollowTheTable :
    wordKind 0x0FF = 0b00 ∧ wordKind 0x100 = 0b01 ∧ wordKind 0x2FF = 0b10 ∧ wordKind 0x3FF = 0b11 := by decide

theorem witness_StepRunsTheDecodedOperation :
    { st 2 0x34 0x12 0 with script := [0x000, 0x100] }.script = [0x000, 0x100] ∧
      decodeKey (keyOf 0x000 (2 : Count)) = .ok .rxTerm := ⟨rfl, rfl⟩

theorem witness_StepWaitsWithoutAnEvent : State.reset.script = [] := by decide

theorem witness_ReservedCountFaultsForGood :
    (st 3 0x01 0x02 0x0003).count = 3 ∧
      { st 3 0x01 0x02 0x0003 with script := [0x3FF, 0x200] }.script = [0x3FF, 0x200] ∧
      wordKind 0x3FF = kindRxt ∧ wordKind 0x000 = kindRx := by decide

theorem witness_RxAppend0StoresTheFirstByte : (st 0 0x77 0x88 0x1111).count = 0 := by decide
theorem witness_RxAppend1StoresTheSecondByte : (st 1 0x05 0x99 0x2222).count = 1 := by decide
theorem witness_RxTermPublishesTheBuffer : (st 2 0xFF 0xFF 0x0000).count = 2 := by decide

theorem witness_RxDropChangesNothing :
    (st 2 0x34 0x12 0x0000).count = 2 ∧ (0x01 : Byte) ≠ 0x00 ∧
      (∀ d ∈ ([0x01, 0xFF] : List Byte), d ≠ 0x00) ∧
      ∃ t, perform 0x000 (st 2 0x34 0x12 0x0000) = .next t ∧ t.count ≠ 2 :=
  ⟨by decide, by decide, by decide, _, rfl, by decide⟩

theorem witness_CountFollowsTheTransitionTable :
    (st 0 0x34 0x12 5).count = 0 ∧ (st 1 0x34 0x12 5).count = 1 ∧ (st 2 0x34 0x12 5).count = 2 ∧
      (0x00 : Byte) = 0x00 ∧ (0x01 : Byte) ≠ 0x00 := by decide

theorem witness_ZeroByteBelowFullIsData :
    (st 0 0x34 0x12 5).count < 2 ∧ (st 1 0x34 0x12 5).count < 2 ∧
      wordKind 0x000 = kindRx ∧ wordKind 0x300 = kindRxt ∧
      wordData 0x000 = 0x00 ∧ wordData 0x300 = 0x00 := by decide

theorem witness_SampleIsWrittenOnlyByTermAndReset :
    (∃ t, perform 0x300 (st 2 0x34 0x12 5) = .next t) ∧
      noReset [0x034, 0x100, 0x312] = true ∧ published [0x034, 0x100, 0x312] (st 0 0 0 5) = [] ∧
      ∃ t, runWords [0x034, 0x100, 0x312] (st 0 0 0 5) = .next t :=
  ⟨⟨_, rfl⟩, by decide, by decide, _, rfl⟩

theorem witness_AssembledSampleHasTheSignedValue : (st 2 0xFE 0xFF 0x0000).count = 2 := by decide

theorem witness_WholeFramesPublishTheirValuesInOrder :
    (st 0 0x77 0x88 0x1111).count = 0 ∧
      ∀ v ∈ ([-32768, 0, 256, 2048, 32767] : List Int), -32768 ≤ v ∧ v ≤ 32767 := by decide

theorem witness_OneFrameFromEveryCount :
    (st 0 0x11 0x22 0).count = 0 ∧ (st 1 0x11 0x22 0).count = 1 ∧ (st 2 0x11 0x22 0).count = 2 ∧
      (st 2 0x11 0x22 0).count ≠ 3 ∧ (0x00 : Byte) = 0x00 ∧ (0x01 : Byte) ≠ 0x00 := by decide

theorem witness_ZeroFirstFramesNeverResynchronise : (st 2 0xAA 0xBB 0x0000).count = 2 := by decide

theorem witness_BufferHoldsTheFirstBytesReceived :
    (st 0 0x77 0x88 0).count = 0 ∧ noReset [0x000, 0x100, 0x312, 0x056] = true ∧
      published [0x000, 0x100, 0x312, 0x056] (st 0 0x77 0x88 0) = [] ∧
      (∃ t, runWords [0x100] (st 0 0x77 0x88 0) = .next t ∧ t.count = 0) ∧
      (∃ t, runWords [0x000, 0x100] (st 0 0x77 0x88 0) = .next t ∧ t.count = 1) ∧
      ∃ t, runWords [0x000, 0x100, 0x312, 0x056] (st 0 0x77 0x88 0) = .next t ∧ t.count = 2 :=
  ⟨by decide, by decide, by decide, ⟨_, rfl, by decide⟩, ⟨_, rfl, by decide⟩, _, rfl, by decide⟩

theorem witness_StaleBufferBytesAreUnobservable :
    AgreeButStaleBuffer (st 1 0x11 0x22 5) (st 1 0x11 0x99 5) ∧
      ∃ t, runWords [0x034, 0x300] (st 1 0x11 0x22 5) = .next t :=
  ⟨by unfold AgreeButStaleBuffer; decide, _, rfl⟩

theorem witness_MidStreamEntryPublishesABogusSample :
    (0x01 : Byte) ≠ 0x00 ∧ ((0x00 : Byte) = 0x00 ∨ (0x01 : Byte) = 0x00) := by decide

theorem witness_OneDacWritePerTick :
    (∃ t, perform 0x100 (st 1 0x11 0x22 5) = .next t) ∧ (∃ t, perform 0x3FF (st 1 0x11 0x22 5) = .next t) ∧
      (∃ t, perform 0x0FF (st 1 0x11 0x22 5) = .next t) ∧ (∃ t, perform 0x200 (st 1 0x11 0x22 5) = .next t) ∧
      wordKind 0x100 = kindTick ∧ wordKind 0x3FF = kindRxt ∧ wordKind 0x0FF = kindRx ∧
      wordKind 0x200 = kindReset :=
  ⟨⟨_, rfl⟩, ⟨_, rfl⟩, ⟨_, rfl⟩, ⟨_, rfl⟩, by decide, by decide, by decide, by decide⟩

theorem witness_TicksRepeatTheLastPublishedSample :
    noReset [0x034, 0x012, 0x000] = true ∧ noReset [0x100, 0x356, 0x100] = true ∧
      ∃ m, runWords (eventWord .reset :: [0x034, 0x012, 0x000]) (st 1 0x11 0x22 5) = .next m ∧
        published [0x100, 0x356, 0x100] m = [] ∧ ∃ t, runWords [0x100, 0x356, 0x100] m = .next t :=
  ⟨by decide, by decide, _, rfl, by decide, _, rfl⟩

theorem witness_AtomicTickReadsTheLatestSample :
    (st 1 0x11 0x22 5).params.sampleUpdateAtomic = true ∧ noReset [0x034, 0x012, 0x000, 0x001, 0x002] = true ∧
      (wordKind 0x300 = kindTick ∨ wordKind 0x300 = kindRxt) ∧
      ∃ m, runWords (eventWord .reset :: [0x034, 0x012, 0x000, 0x001, 0x002]) (st 1 0x11 0x22 5) = .next m ∧
        ∃ t, perform 0x300 m = .next t :=
  ⟨by decide, by decide, by decide, _, rfl, _, rfl⟩

theorem witness_WrittenVoltageIsTheSampleOver2048 :
    0 ≤ (st 0 0 0 0x0000).sample.toInt ∧ (st 0 0 0 0x07FF).sample.toInt ≤ 2047 ∧
      0 ≤ (st 0 0 0 0x07FF).sample.toInt := by decide

theorem witness_RxtWritesTheOldOrTornSampleThenTakesTheByte :
    (2 : Count) ≠ 3 ∧ (st 3 0 0 0).count = 3 ∧ (st 2 0x00 0x01 0x00FF).count ≠ 3 ∧
      ((0x00 : Byte) = 0x00 ∧ (nonAtomic (st 2 0x00 0x01 0x00FF)).count = 2 ∧
        (nonAtomic (st 2 0x00 0x01 0x00FF)).params.sampleUpdateAtomic = false) ∧
      ¬ ((0x56 : Byte) = 0x00 ∧ (st 2 0x34 0x12 0x0042).count = 2 ∧
        (st 2 0x34 0x12 0x0042).params.sampleUpdateAtomic = false) ∧
      (st 2 0x00 0x01 0x00FF).params.sampleUpdateAtomic = true := by decide

theorem witness_TornReadMixesOldAndNewBytes :
    (st 2 0x00 0x01 0x00FF).count = 2 ∧ (st 2 0x00 0x01 0x00FF).params.sampleUpdateAtomic = true ∧
      (nonAtomic (st 2 0x00 0x01 0x00FF)).count = 2 ∧
      (nonAtomic (st 2 0x00 0x01 0x00FF)).params.sampleUpdateAtomic = false := by decide

theorem witness_EveryStepKeepsTheInvariant :
    Inv { st 2 0x34 0x12 7 with dacOut := 5, log := [9, 5], script := [0x300] } ∧
      ∃ t, step { st 2 0x34 0x12 7 with dacOut := 5, log := [9, 5], script := [0x300] } = .next t :=
  ⟨by decide, _, rfl⟩

theorem witness_EveryEventStreamIsAccepted : (st 2 0x34 0x12 7).count ≠ 3 := by decide

theorem witness_TicksDoNotAffectTheFramer :
    ∃ t, runWords [0x100, 0x334, 0x012, 0x100, 0x300, 0x200] (st 0 0x11 0x22 5) = .next t := ⟨_, rfl⟩

theorem witness_ParametersAreFixedAndTimingOnesUnread :
    ∃ t, step { st 2 0x34 0x12 7 with script := [0x200] } = .next t := ⟨_, rfl⟩

theorem witness_OperationsWriteOnlyTheirElements :
    (∃ t, exec (.rxt 0x00) (st 1 0x11 0x22 5) = .next t) ∧ (st 1 0x11 0x22 5).count ≠ 0 ∧
      (∃ t, exec (.rxt 0x00) (st 2 0x11 0x22 5) = .next t) ∧ (st 2 0x11 0x22 5).count ≠ 1 ∧
      ¬ ((st 1 0x11 0x22 5).count = 2 ∧ (0x00 : Byte) = 0x00) ∧
      (∃ t, exec (.rxDrop 0x01) (st 2 0x11 0x22 5) = .next t) ∧
      (st 1 0x11 0x22 5).params.sampleUpdateAtomic = true ∧
      (∃ t, exec (.rxt 0x01) (nonAtomic (st 2 0x11 0x22 5)) = .next t) ∧
      ((nonAtomic (st 2 0x11 0x22 5)).count = 2 ∧ (0x01 : Byte) ≠ 0x00) ∧
      ¬ ((nonAtomic (st 2 0x11 0x22 5)).count = 2 ∧ (0x01 : Byte) = 0x00 ∧
        (nonAtomic (st 2 0x11 0x22 5)).params.sampleUpdateAtomic = false) :=
  ⟨⟨_, rfl⟩, by decide, ⟨_, rfl⟩, by decide, by decide, ⟨_, rfl⟩, by decide, ⟨_, rfl⟩, by decide, by decide⟩

theorem witness_FrameIsShownAtTheNextTick :
    (st 0 0x11 0x22 5).count = 0 ∧ (-32768 : Int) ≤ 32767 ∧ noReset [0x100, 0x034] = true ∧
      ∃ m, runWords (frameWords 32767) (st 0 0x11 0x22 5) = .next m ∧ published [0x100, 0x034] m = [] ∧
        ∃ t, runWords ([0x100, 0x034] ++ [eventWord .tick]) m = .next t :=
  ⟨by decide, by decide, by decide, _, rfl, by decide, _, rfl⟩

theorem witness_ResetDominatesCoincidentInputs :
    ({ rst := true, rxValid := true, rxData := 0x34, tick := true } : PortInputs).rst = true ∧
      ({ rst := false, rxValid := true, rxData := 0x34, tick := true } : PortInputs).rst = false ∧
      ({ rst := false, rxValid := true, rxData := 0x34, tick := true } : PortInputs).rxValid = true ∧
      ({ rst := false, rxValid := true, rxData := 0x34, tick := true } : PortInputs).tick = true := by decide

end Sys2Proof.Tests
end

section
/-! PROOFS. The signed value of an assembled sample (R65). -/

namespace Sys2Proof.Machine

/-- The sign of an assembled sample is the top bit of its high byte, `BUF[1][7]` (R65). -/
theorem assemble_msb (b1 b0 : Byte) : (assemble b1 b0).msb = b1.getLsbD 7 :=
  calc (assemble b1 b0).msb = (assemble b1 b0).getLsbD 15 := BitVec.msb_eq_getLsbD_last _
    _ = b1.getLsbD 7 := assemble_getLsbD b1 b0 15

/-- The value of an assembled sample, read as signed: two's complement takes the 65536 off where the
sign bit is set (R65). -/
theorem assemble_toInt (b1 b0 : Byte) :
    (assemble b1 b0).toInt =
      (b0.toNat : Int) + 256 * (b1.toNat : Int) - 65536 * (if b1.getLsbD 7 then 1 else 0) := by
  have hpow : (2 : Nat) ^ Config.sampleWidth = 65536 := rfl
  rw [BitVec.toInt_eq_msb_cond, assemble_msb, assemble_toNat, hpow]
  split <;> push_cast <;> ring

/-- RX_TERM goes on with the sample published (R83). -/
theorem exec_rxTerm (s : State) : exec .rxTerm s = .next (publish s) := rfl

/-- Settles O22: the state after RX_TERM is `publish s`, whose sample is the assembly of the two bytes. -/
theorem assembledSampleHasTheSignedValue : Obligations.AssembledSampleHasTheSignedValue := by
  unfold Obligations.AssembledSampleHasTheSignedValue
  intro s _
  have hlow : (assemble s.buf1 s.buf0).extractLsb' 0 8 = s.buf0 := lowByte_assemble s.buf1 s.buf0
  have hhigh : (assemble s.buf1 s.buf0).extractLsb' 8 8 = s.buf1 := highByte_assemble s.buf1 s.buf0
  exact ⟨publish s, exec_rxTerm s, hlow, hhigh, assemble_toInt s.buf1 s.buf0,
    fun _ hn => BitVec.toInt_signExtend_of_le hn⟩

end Sys2Proof.Machine
end

section
/-! PROOFS. The framer: how it dispatches a byte (R80), what its operations do (R81 to R84), and what
writes `SAMPLE` (R86). -/

namespace Sys2Proof.Machine

open Sys2Proof.Laws

/-! The meanings of the appending and dropping operations. -/

/-- RX_APPEND0 goes on with the first byte stored (R81). -/
theorem exec_rxAppend0 (d : Byte) (s : State) : exec (.rxAppend0 d) s = .next (appendFirst d s) := rfl

/-- RX_APPEND1 goes on with the second byte stored (R82). -/
theorem exec_rxAppend1 (d : Byte) (s : State) : exec (.rxAppend1 d) s = .next (appendSecond d s) := rfl

/-- RX_DROP goes on with the same state (R84). -/
theorem exec_rxDrop (d : Byte) (s : State) : exec (.rxDrop d) s = .next s := rfl

/-! The key patterns of rows 4 to 7 of R64, kind and `COUNT` written as one nibble. -/

theorem decodeKey_pattern_0000 (d : Byte) : decodeKey (0b0000#4 ++ d) = .ok (.rxAppend0 d) :=
  calc decodeKey (0b0000#4 ++ d) = decodeKey (mkKey kindRx 0#2 d) := rfl
    _ = .ok (.rxAppend0 d) := by simp [decodeKey_rx]

theorem decodeKey_pattern_0001 (d : Byte) : decodeKey (0b0001#4 ++ d) = .ok (.rxAppend1 d) :=
  calc decodeKey (0b0001#4 ++ d) = decodeKey (mkKey kindRx 1#2 d) := rfl
    _ = .ok (.rxAppend1 d) := by simp [decodeKey_rx]

/-- The pattern 0010 is RX_TERM's for the sentinel, which R64 matches first, and RX_DROP's for every
other byte. -/
theorem decodeKey_pattern_0010 (d : Byte) :
    decodeKey (0b0010#4 ++ d) = if d = 0#8 then .ok .rxTerm else .ok (.rxDrop d) :=
  calc decodeKey (0b0010#4 ++ d) = decodeKey (mkKey kindRx 2#2 d) := rfl
    _ = if d = 0#8 then .ok .rxTerm else .ok (.rxDrop d) := by simp [decodeKey_rx]

/-! Dispatch. -/

/-- An RX event at the reserved `COUNT` faults (R70). -/
theorem perform_rx_reserved {s : State} (d : Byte) (h : s.count = 3#2) :
    perform (eventWord (.rx d)) s = .fault (.unreachable .count3) := by
  rw [eventWord, perform_rx, h]; simp

/-- Settles O14: at each `COUNT` the event and the chain of R80 give the same operation. -/
theorem rxDispatchFollowsTheThreeSteps : Obligations.RxDispatchFollowsTheThreeSteps := by
  unfold Obligations.RxDispatchFollowsTheThreeSteps
  intro d s
  rcases count_cases s.count with h | h | h | h
  · simp [perform_rx_empty d h, exec_rxAppend0, h]
  · simp [perform_rx_oneByte d h, exec_rxAppend1, h]
  · by_cases hd : d = 0#8
    · subst hd
      simp [perform_rx_full_sentinel h, exec_rxTerm, h]
    · simp [perform_rx_full_data h hd, exec_rxDrop, h, hd]
  · simp [perform_rx_reserved d h, h]

/-! One operation at a time. -/

/-- Settles O15: the state after RX_APPEND0 is `appendFirst d s`. -/
theorem rxAppend0StoresTheFirstByte : Obligations.RxAppend0StoresTheFirstByte := by
  unfold Obligations.RxAppend0StoresTheFirstByte
  intro d s _
  exact ⟨decodeKey_pattern_0000 d, exec_rxAppend0 d s⟩

/-- Settles O16: the state after RX_APPEND1 is `appendSecond d s`. -/
theorem rxAppend1StoresTheSecondByte : Obligations.RxAppend1StoresTheSecondByte := by
  unfold Obligations.RxAppend1StoresTheSecondByte
  intro d s _
  exact ⟨decodeKey_pattern_0001 d, exec_rxAppend1 d s⟩

/-- Settles O17: the key is the pattern 0010 with the sentinel, and the state after RX_TERM is
`publish s`. -/
theorem rxTermPublishesTheBuffer : Obligations.RxTermPublishesTheBuffer := by
  unfold Obligations.RxTermPublishesTheBuffer
  intro s _
  exact ⟨decodeKey_pattern_0010 0#8, exec_rxTerm s⟩

/-! When an event publishes, and what leaves a full buffer. -/

/-- An event with an RX part publishes exactly where the operation it selects is RX_TERM. -/
theorem publishes_iff_term {w : EventWord} {s : State} {op : RxOp}
    (hk : wordKind w = kindRx ∨ wordKind w = kindRxt)
    (hs : selectRx (wordData w) s.count = some op) : publishes w s = true ↔ op = .term := by
  rw [publishes_iff]
  rcases selectRx_some hs with ⟨rfl, hc⟩ | ⟨rfl, hc⟩ | ⟨rfl, hc, hd⟩ | ⟨rfl, hc, hd⟩
  · simp [hc]
  · simp [hc]
  · simp [hk, hc, hd]
  · simp [hd]

/-- Of the operations a full buffer selects, only RX_TERM changes `COUNT`. -/
theorem performRx_leaves_full {d : Byte} {s : State} {op : RxOp} (hc : s.count = 2#2)
    (hs : selectRx d s.count = some op) (hleave : (performRx op d s).count ≠ 2#2) : op = .term := by
  rcases selectRx_some hs with ⟨-, h0⟩ | ⟨-, h1⟩ | ⟨hterm, -⟩ | ⟨rfl, -⟩
  · simp [hc] at h0
  · simp [hc] at h1
  · exact hterm
  · exact absurd hc hleave

/-- Only a RESET or a publishing event leaves a full buffer (R84). -/
theorem perform_leaves_full {w : EventWord} {s t : State} (hc : s.count = 2#2)
    (h : perform w s = .next t) (hleave : t.count ≠ 2#2) :
    wordKind w = kindReset ∨ publishes w s = true := by
  rcases perform_cases h with ⟨hk, -⟩ | ⟨-, rfl⟩ | ⟨hk, op, hs, rfl⟩ | ⟨hk, op, hs, rfl⟩
  · exact .inl hk
  · exact absurd hc hleave
  · exact .inr ((publishes_iff_term (.inl hk) hs).2 (performRx_leaves_full hc hs hleave))
  · -- the TICK part of RXT leaves `COUNT`
    have hc' : (dacWrite (coincidentCode op s) (countDraw op s)).count = 2#2 := hc
    exact .inr ((publishes_iff_term (.inr hk) hs).2 (performRx_leaves_full hc' hs hleave))

/-- A run of bytes other than the sentinel leaves a full buffer's state as it is (R84). -/
theorem runWords_drops {s : State} (hc : s.count = 2#2) {ds : List Byte} (hds : ∀ d ∈ ds, d ≠ 0#8) :
    runWords (ds.map fun d => eventWord (.rx d)) s = .next s := by
  induction ds with
  | nil => rfl
  | cons d ds ih =>
    obtain ⟨hd, hds⟩ := List.forall_mem_cons.1 hds
    calc runWords (eventWord (.rx d) :: ds.map fun d => eventWord (.rx d)) s
        = runWords (ds.map fun d => eventWord (.rx d)) s :=
          runWords_cons_of_next (perform_rx_full_data hc hd)
      _ = .next s := ih hds

/-- Settles O18: one drop by RX_DROP's row and meaning, a run of drops by induction, and the ways out of
`COUNT` = 2 by what an event can do. -/
theorem rxDropChangesNothing : Obligations.RxDropChangesNothing := by
  unfold Obligations.RxDropChangesNothing
  intro s hc
  refine ⟨fun d hd => ⟨(decodeKey_pattern_0010 d).trans (if_neg hd), exec_rxDrop d s⟩,
    fun ds hds => runWords_drops hc hds, fun w t h hleave => ?_⟩
  rcases perform_leaves_full hc h hleave with hk | hp
  · exact .inl hk
  · obtain ⟨hk, hd, -⟩ := publishes_iff.1 hp
    exact .inr ⟨hk, hd⟩

/-! What writes `SAMPLE` (R86). -/

/-- A framer operation writes `SAMPLE` only where it is RX_TERM (R29). -/
theorem performRx_sample (op : RxOp) (d : Byte) (s : State) :
    (performRx op d s).sample = if op = .term then assemble s.buf1 s.buf0 else s.sample := by
  cases op <;> simp

/-- `SAMPLE` after any event: RESET's 0, the assembled buffer where the event publishes, and unchanged
otherwise. -/
theorem perform_sample {w : EventWord} {s t : State} (h : perform w s = .next t) :
    t.sample = if wordKind w = kindReset then 0
      else if publishes w s then assemble s.buf1 s.buf0 else s.sample := by
  rcases perform_cases h with ⟨hk, rfl⟩ | ⟨hk, rfl⟩ | ⟨hk, op, hs, rfl⟩ | ⟨hk, op, hs, rfl⟩
  · simp [hk]
  · simp [publishes, hasByte, hk, kindTick, kindReset, kindRx, kindRxt]
  · simp [publishes_iff_term (.inl hk) hs, performRx_sample, hk, kindRx, kindReset]
  · simp [publishes_iff_term (.inr hk) hs, performRx_sample, hk, kindRxt, kindReset]

/-- A run that is not reset and publishes nothing keeps `SAMPLE`. -/
theorem runWords_sample_of_unpublished {ws : List EventWord} {s t : State} (hr : noReset ws = true)
    (hp : published ws s = []) (h : runWords ws s = .next t) : t.sample = s.sample := by
  induction ws generalizing s with
  | nil => cases h; rfl
  | cons w ws ih =>
    obtain ⟨m, hm, hrun⟩ := runWords_cons_next h
    obtain ⟨hk, hr⟩ := noReset_cons.1 hr
    rw [published_cons hm] at hp
    obtain ⟨hw, hp⟩ := List.append_eq_nil_iff.1 hp
    have hnot : ¬ publishes w s = true := fun hpub => by simp [hpub] at hw
    calc t.sample = m.sample := ih hr hp hrun
      _ = s.sample := by rw [perform_sample hm, if_neg hk, if_neg hnot]

/-- Settles O21: `SAMPLE` after one event, with the publishing condition written out, and by induction
over the events of a run. -/
theorem sampleIsWrittenOnlyByTermAndReset : Obligations.SampleIsWrittenOnlyByTermAndReset := by
  unfold Obligations.SampleIsWrittenOnlyByTermAndReset
  refine ⟨fun s t w h => ?_, fun _ _ _ hr hp h => runWords_sample_of_unpublished hr hp h⟩
  rw [perform_sample h]
  simp only [publishes_iff]
  rfl

end Sys2Proof.Machine
end

section
/-! PROOFS. The DAC driver: what TICK does (R100), and the range of the voltages it writes (R102, R103). -/

namespace Sys2Proof.Machine

open Sys2Proof.Laws

/-! The key and the meaning of TICK. -/

/-- The key pattern of row 2 of R64: no bit of `COUNT` or of the data is looked at. -/
theorem decodeKey_pattern_01 (c : Count) (d : Byte) : decodeKey (0b01#2 ++ c ++ d) = .ok .tick :=
  calc decodeKey (0b01#2 ++ c ++ d) = decodeKey (mkKey kindTick c d) := rfl
    _ = .ok .tick := decodeKey_tick c d

/-- TICK goes on with one DAC write of `SAMPLE` (R100). -/
theorem exec_tick (s : State) : exec .tick s = .next (dacWrite s.sample s) := rfl

/-- Settles O29: the key is row 2's pattern, and the state after TICK is `dacWrite s.sample s`. -/
theorem tickWritesTheSample : Obligations.TickWritesTheSample := by
  unfold Obligations.TickWritesTheSample
  intro s
  exact ⟨decodeKey_pattern_01, exec_tick s⟩

/-! The voltage of a code. -/

theorem dacValue_eq (c : Sample) : dacValue c = (c.toInt : Rat) / 2048 := by
  simp [dacValue, Config.scale]

/-- Voltages are ordered as the signed codes they stand for. -/
theorem dacValue_le_iff (c : Sample) (k : Int) : dacValue c ≤ (k : Rat) / 2048 ↔ c.toInt ≤ k := by
  rw [dacValue_eq, div_le_div_iff_of_pos_right (by norm_num), Int.cast_le]

theorem le_dacValue_iff (c : Sample) (k : Int) : (k : Rat) / 2048 ≤ dacValue c ↔ k ≤ c.toInt := by
  rw [dacValue_eq, div_le_div_iff_of_pos_right (by norm_num), Int.cast_le]

/-- The voltages of the sender's samples (R102). -/
theorem dacValue_mem_sender_range {c : Sample} (h : 0 ≤ c.toInt) (h' : c.toInt ≤ 2047) :
    0 ≤ dacValue c ∧ dacValue c ≤ 2047 / 2048 :=
  ⟨by simpa using (le_dacValue_iff c 0).2 h, by simpa using (dacValue_le_iff c 2047).2 h'⟩

/-- The voltages of all 16-bit codes: the ends of two's complement, -2^15 and 2^15 - 1, over 2048 (R102). -/
theorem dacValue_mem_range (c : Sample) : -16 ≤ dacValue c ∧ dacValue c ≤ 32767 / 2048 := by
  have hlow : -32768 ≤ c.toInt := BitVec.le_toInt c
  have hhigh : c.toInt ≤ 32767 := Int.le_of_lt_add_one BitVec.toInt_lt
  have hend : ((-32768 : Int) : Rat) / 2048 = -16 := by norm_num
  exact ⟨hend ▸ (le_dacValue_iff c (-32768)).2 hlow, by simpa using (dacValue_le_iff c 32767).2 hhigh⟩

/-- Settles O33: TICK writes the bit pattern of `SAMPLE` as it is, so the bounds are those of the voltage
of a code. -/
theorem writtenVoltageIsTheSampleOver2048 : Obligations.WrittenVoltageIsTheSampleOver2048 := by
  unfold Obligations.WrittenVoltageIsTheSampleOver2048
  intro s
  have hout : (dacWrite s.sample s).dacOut = s.sample := dacWrite_dacOut s.sample s
  refine ⟨dacWrite s.sample s, exec_tick s, hout, ?_⟩
  rw [hout]
  exact ⟨dacValue_eq s.sample, dacValue_mem_sender_range, dacValue_mem_range s.sample⟩

end Sys2Proof.Machine
end

section
/-! PROOFS. The encodings: event words (R62), decode keys (R63, R64), and how decoding and encoding agree. -/

namespace Sys2Proof.Machine

open Sys2Proof.Laws

/-! Event words. -/

theorem mkWord_toNat (k : Kind) (d : Byte) : (mkWord k d).toNat = 256 * k.toNat + d.toNat := by
  have h : (mkWord k d).toNat = k.toNat <<< 8 ||| d.toNat := BitVec.toNat_append k d
  rw [h, Nat.shiftLeft_eq, Nat.mul_comm, ← Nat.two_pow_add_eq_or_of_lt d.isLt]

/-- The event a word stands for, kind by kind (R62, R68). -/
theorem decodeEvent_mkWord (k : Kind) (d : Byte) :
    decodeEvent (mkWord k d) =
      if k = kindRx then .rx d else if k = kindTick then .tick
      else if k = kindReset then .reset else .rxt d := by
  simp [decodeEvent]

theorem decodeEvent_eventWord (e : Event) : decodeEvent (eventWord e) = e := by
  cases e <;> rw [eventWord, decodeEvent_mkWord] <;> simp [kindRx, kindTick, kindReset, kindRxt]

/-- Settles O2: the value of `{kind, data}`, read for each event, and the decoder kind by kind. -/
theorem eventWordsFollowTheTable : Obligations.EventWordsFollowTheTable := by
  unfold Obligations.EventWordsFollowTheTable
  refine ⟨fun w => ?_, mkWord_toNat kindRx, mkWord_toNat kindTick 0, mkWord_toNat kindReset 0,
    mkWord_toNat kindRxt, fun w => ?_, decodeEvent_eventWord⟩
  · calc w.toNat = (mkWord (wordKind w) (wordData w)).toNat := by rw [mkWord_wordKind_wordData]
      _ = 256 * (wordKind w).toNat + (wordData w).toNat := mkWord_toNat _ _
  · refine ⟨?_, ?_, ?_, ?_⟩ <;> intro hk <;> simp [decodeEvent, hk, kindRx, kindTick, kindReset]

/-! Decode keys. -/

/-- The key of an operation at any `COUNT` (R63). -/
theorem encode_eq (i : Instr) (c : Count) :
    encode i c = mkKey (EncodedFields.kind i) c (EncodedFields.data i) := by
  cases i with
  | reset => exact EncodedFields.reset c
  | tick => exact EncodedFields.tick c
  | rxt d => exact EncodedFields.rxt d c
  | rxTerm => exact EncodedFields.rxTerm c
  | rxAppend0 d => exact EncodedFields.rxAppend0 d c
  | rxAppend1 d => exact EncodedFields.rxAppend1 d c
  | rxDrop d => exact EncodedFields.rxDrop d c

/-- The decoder reads a well-formed, enabled operation from the operation's own key. -/
theorem decodeKey_encode {i : Instr} {c : Count} (hwf : i.wf = true) (hen : i.enabledAt c = true) :
    decodeKey (encode i c) = .ok i := by
  rw [encode_eq]
  cases i with
  | reset => exact decodeKey_reset c 0
  | tick => exact decodeKey_tick c 0
  | rxt d =>
    have hc : c ≠ 3#2 := by simpa [Instr.enabledAt] using hen
    exact (decodeKey_rxt c d).trans (if_neg hc)
  | rxTerm =>
    obtain rfl : c = 2#2 := by simpa [Instr.enabledAt] using hen
    exact decodeKey_rx 2#2 0#8
  | rxAppend0 d =>
    obtain rfl : c = 0#2 := by simpa [Instr.enabledAt] using hen
    exact decodeKey_rx 0#2 d
  | rxAppend1 d =>
    obtain rfl : c = 1#2 := by simpa [Instr.enabledAt] using hen
    exact decodeKey_rx 1#2 d
  | rxDrop d =>
    obtain rfl : c = 2#2 := by simpa [Instr.enabledAt] using hen
    have hd : d ≠ 0#8 := by simpa [Instr.wf] using hwf
    exact (decodeKey_rx 2#2 d).trans (if_neg hd)

/-- Settles O3. -/
theorem decodeInvertsEncode : Obligations.DecodeInvertsEncode := by
  unfold Obligations.DecodeInvertsEncode
  exact fun _ _ => decodeKey_encode

/-- What a decoded operation says of the fields of its key, row by row of R64. -/
theorem decodeKey_ok_cases {k : Kind} {c : Count} {d : Byte} {i : Instr}
    (h : decodeKey (mkKey k c d) = .ok i) :
    (k = kindReset ∧ i = .reset) ∨ (k = kindTick ∧ i = .tick) ∨
      (k = kindRxt ∧ c ≠ 3#2 ∧ i = .rxt d) ∨
      (k = kindRx ∧ ((c = 0#2 ∧ i = .rxAppend0 d) ∨ (c = 1#2 ∧ i = .rxAppend1 d) ∨
        (c = 2#2 ∧ d = 0#8 ∧ i = .rxTerm) ∨ (c = 2#2 ∧ d ≠ 0#8 ∧ i = .rxDrop d))) := by
  rcases kind_cases k with rfl | rfl | rfl | rfl
  · rw [decodeKey_rx] at h
    refine .inr (.inr (.inr ⟨rfl, ?_⟩))
    split_ifs at h with h0 h1 h2 hd
    · exact .inl ⟨h0, (Except.ok.inj h).symm⟩
    · exact .inr (.inl ⟨h1, (Except.ok.inj h).symm⟩)
    · exact .inr (.inr (.inl ⟨h2, hd, (Except.ok.inj h).symm⟩))
    · exact .inr (.inr (.inr ⟨h2, hd, (Except.ok.inj h).symm⟩))
  · rw [decodeKey_tick] at h
    exact .inr (.inl ⟨rfl, (Except.ok.inj h).symm⟩)
  · rw [decodeKey_reset] at h
    exact .inl ⟨rfl, (Except.ok.inj h).symm⟩
  · rw [decodeKey_rxt] at h
    split at h
    · cases h
    · next hc => exact .inr (.inr (.inl ⟨rfl, hc, (Except.ok.inj h).symm⟩))

/-- A decoded operation is well formed, enabled, and of the key's kind; and its data bits are the key's
where they are not ignored. -/
theorem decodeKey_ok_sound {k : Kind} {c : Count} {d : Byte} {i : Instr}
    (h : decodeKey (mkKey k c d) = .ok i) :
    i.wf = true ∧ i.enabledAt c = true ∧ EncodedFields.kind i = k ∧
      (k = kindRx ∨ k = kindRxt → EncodedFields.data i = d) := by
  rcases decodeKey_ok_cases h with ⟨rfl, rfl⟩ | ⟨rfl, rfl⟩ | ⟨rfl, hc, rfl⟩ |
    ⟨rfl, ⟨rfl, rfl⟩ | ⟨rfl, rfl⟩ | ⟨rfl, rfl, rfl⟩ | ⟨rfl, hd, rfl⟩⟩
  · simp [Instr.wf, Instr.enabledAt, EncodedFields.kind, kindReset, kindRx, kindRxt]
  · simp [Instr.wf, Instr.enabledAt, EncodedFields.kind, kindTick, kindRx, kindRxt]
  all_goals simp [Instr.wf, Instr.enabledAt, EncodedFields.kind, EncodedFields.data, *]

/-- Settles O4: the key is taken apart into its fields, and the operation's key is put together from the
same ones. -/
theorem decodedKeyIsTheOperationsKey : Obligations.DecodedKeyIsTheOperationsKey := by
  unfold Obligations.DecodedKeyIsTheOperationsKey
  intro k i h
  rw [← mkKey_fields k] at h
  obtain ⟨hwf, hen, hkind, hdata⟩ := decodeKey_ok_sound h
  refine ⟨hwf, hen, ?_, fun hk => ?_⟩
  · rw [encode_eq, keyKind_mkKey, hkind]
  · rw [encode_eq, hkind, hdata hk, mkKey_fields]

/-- The keys of row 8 of R64, which R70 rejects. -/
theorem decodeKey_error_iff {k : Kind} {c : Count} {d : Byte} {r : Unreachable} :
    decodeKey (mkKey k c d) = .error r ↔ c = 3#2 ∧ (k = kindRx ∨ k = kindRxt) := by
  cases r
  rcases kind_cases k with rfl | rfl | rfl | rfl
  · rcases count_cases c with rfl | rfl | rfl | rfl <;> by_cases hd : d = 0#8 <;>
      simp [decodeKey_rx, hd]
  · rw [decodeKey_tick]
    simp [kindTick, kindRx, kindRxt]
  · rw [decodeKey_reset]
    simp [kindReset, kindRx, kindRxt]
  · by_cases hc : c = 3#2 <;> simp [decodeKey_rxt, hc]

/-- Settles O5: there is one reason to reject a key. -/
theorem onlyReservedCountKeysAreRejected : Obligations.OnlyReservedCountKeysAreRejected := by
  unfold Obligations.OnlyReservedCountKeysAreRejected
  intro k
  have h : ∀ r, decodeKey k = .error r ↔
      keyCount k = 3 ∧ (keyKind k = kindRx ∨ keyKind k = kindRxt) := by
    intro r
    rw [← mkKey_fields k, decodeKey_error_iff, mkKey_fields]
    rfl
  exact ⟨fun ⟨r, hr⟩ => (h r).1 hr, fun hk => ⟨.count3, (h .count3).2 hk⟩⟩

/-- The key holds the whole event word. -/
theorem keyOf_inj {w w' : EventWord} {c : Count} (h : keyOf w c = keyOf w' c) : w = w' := by
  obtain ⟨hkind, -, hdata⟩ := mkKey_inj.1 h
  rw [← mkWord_wordKind_wordData w, hkind, hdata, mkWord_wordKind_wordData]

/-- Settles O7: the key of RX(d) is not rejected (O5), what it decodes to is such an operation (O4), and
any other such operation has the same key and so decodes to the same (O3). -/
theorem everyByteHasExactlyOneOperation : Obligations.EveryByteHasExactlyOneOperation := by
  unfold Obligations.EveryByteHasExactlyOneOperation
  intro c d hc
  have hkey : keyOf (eventWord (.rx d)) c = mkKey kindRx c d := keyOf_mkWord kindRx d c
  cases h : decodeKey (mkKey kindRx c d) with
  | error r => exact absurd (decodeKey_error_iff.1 h).1 hc
  | ok i =>
    obtain ⟨hwf, hen, hkind, hdata⟩ := decodeKey_ok_sound h
    have henc : encode i c = keyOf (eventWord (.rx d)) c := by
      rw [encode_eq, hkind, hdata (.inl rfl), hkey]
    refine ⟨i, ⟨hwf, hen, keyOf_inj henc⟩, fun j ⟨hjwf, hjen, hj⟩ => ?_⟩
    have hjkey : encode j c = mkKey kindRx c d := by rw [encode, hj, hkey]
    rw [← hjkey, decodeKey_encode hjwf hjen] at h
    exact Except.ok.inj h

/-- Settles O1: each key is its row's pattern with the data bits written out. -/
theorem writtenKeysDecode : Obligations.WrittenKeysDecode := by
  unfold Obligations.WrittenKeysDecode
  exact ⟨decodeKey_reset 0 0, decodeKey_tick 0 0, decodeKey_rxt 0 0x34, decodeKey_rx 2 0x00,
    decodeKey_rx 0 0x34, decodeKey_rx 1 0x12, decodeKey_rx 2 0x56⟩

/-- Settles O6. -/
theorem ignoredDataBitsHaveNoEffect : Obligations.IgnoredDataBitsHaveNoEffect := by
  unfold Obligations.IgnoredDataBitsHaveNoEffect
  exact ⟨fun c d => ⟨decodeKey_tick c d, decodeKey_reset c d⟩,
    fun d s => ⟨(perform_tick d s).trans (perform_tick 0 s).symm,
      (perform_reset d s).trans (perform_reset 0 s).symm⟩,
    wordData_mkWord kindTick 0, wordData_mkWord kindReset 0⟩

end Sys2Proof.Machine
end

section
/-! PROOFS. The lines of an event script: the bytes of a frame (R74), and that the text of an event reads
back (R73). -/

namespace Sys2Proof.Machine

open Sys2Proof.Laws

/-! FRAME. -/

/-- Settles O8: the two data bytes are those of the word `v` modulo 65536, which they make up again. -/
theorem frameBytesAreTheSampleLowFirst : Obligations.FrameBytesAreTheSampleLowFirst := by
  unfold Obligations.FrameBytesAreTheSampleLowFirst
  intro v _ _
  refine ⟨lowByte (sampleOfInt v), highByte (sampleOfInt v), rfl, ?_⟩
  have hbytes := assemble_toNat (highByte (sampleOfInt v)) (lowByte (sampleOfInt v))
  have hword : (sampleOfInt v).toNat = (v % 65536).toNat := by
    rw [sampleOfInt, BitVec.toNat_ofInt]
    norm_num
  rw [assemble_bytes, hword] at hbytes
  omega

/-! Digits and bytes in text. -/

theorem hexDigit_mod (n : Nat) : hexDigit (n % 16) = hexDigit n := by
  unfold hexDigit
  rw [Nat.mod_mod]

theorem digitValue_hexDigit (n : Nat) : digitValue 16 (hexDigit n) = some (n % 16) := by
  have h : ∀ k < 16, digitValue 16 (hexDigit k) = some k := by decide
  rw [← hexDigit_mod, h _ (Nat.mod_lt n (by omega))]

/-- A digit is neither a blank nor the start of a comment. -/
theorem hexDigit_ne (n : Nat) : hexDigit n ≠ ' ' ∧ hexDigit n ≠ ';' := by
  have h : ∀ k < 16, hexDigit k ≠ ' ' ∧ hexDigit k ≠ ';' := by decide
  rw [← hexDigit_mod]
  exact h _ (Nat.mod_lt n (by omega))

theorem blank_not_mem_byteText (d : Byte) : ' ' ∉ byteText d := by
  simp [byteText, (hexDigit_ne _).1.symm]

theorem semicolon_not_mem_byteText (d : Byte) : ';' ∉ byteText d := by
  simp [byteText, (hexDigit_ne _).2.symm]

/-- The two digits of a byte, high digit first, give the byte back. -/
theorem readByte_byteText (d : Byte) : readByte (byteText d) = some d := by
  have hdigits : (d.toNat / 16 % 16) * 16 + d.toNat % 16 = d.toNat := by
    have := d.isLt
    omega
  simp [readByte, byteText, readDigits, digitValue_hexDigit, hdigits]

/-! The words of a line. -/

theorem splitText_of_not_mem {sep : Char} {cs : List Char} (h : sep ∉ cs) : splitText sep cs = [cs] := by
  induction cs with
  | nil => rfl
  | cons c cs ih =>
    obtain ⟨hc, hcs⟩ := not_or.1 (mt List.mem_cons.2 h)
    simp [splitText, Ne.symm hc, ih hcs]

/-- A separator ends the piece before it. -/
theorem splitText_append {sep : Char} {cs : List Char} (rest : List Char) (h : sep ∉ cs) :
    splitText sep (cs ++ sep :: rest) = cs :: splitText sep rest := by
  induction cs with
  | nil => simp [splitText]
  | cons c cs ih =>
    obtain ⟨hc, hcs⟩ := not_or.1 (mt List.mem_cons.2 h)
    simp [splitText, Ne.symm hc, ih hcs]

/-- A line of two words. -/
theorem textWords_pair {u v : List Char} (hu : ' ' ∉ u) (hv : ' ' ∉ v) (hu' : u ≠ []) (hv' : v ≠ []) :
    textWords (u ++ ' ' :: v) = [u, v] := by
  simp [textWords, splitText_append v hu, splitText_of_not_mem hv, hu', hv']

/-- A line without a comment is its own body. -/
theorem takeWhile_no_comment {cs : List Char} (h : ';' ∉ cs) : cs.takeWhile (fun c => c != ';') = cs :=
  List.takeWhile_eq_self_iff.2 fun _ hc => bne_iff_ne.2 (ne_of_mem_of_not_mem hc h)

/-- A line of a mnemonic and a byte, read by the mnemonic. -/
theorem readLine_byte {u : List Char} (d : Byte) (hu : ' ' ∉ u) (hu' : ';' ∉ u)
    (hm : u = "RX".toList ∨ u = "RXT".toList) :
    readLine (u ++ ' ' :: byteText d) = some [if u = "RX".toList then .rx d else .rxt d] := by
  have hbody : ';' ∉ u ++ ' ' :: byteText d := by simp [hu', semicolon_not_mem_byteText]
  have hwords : textWords (u ++ ' ' :: byteText d) = [u, byteText d] :=
    textWords_pair hu (blank_not_mem_byteText d) (by rintro rfl; simp at hm) (by simp [byteText])
  simp only [readLine, takeWhile_no_comment hbody, hwords]
  rcases hm with rfl | rfl <;> simp [readByte_byteText]

/-- Settles O9. -/
theorem eventTextReadsBack : Obligations.EventTextReadsBack := by
  unfold Obligations.EventTextReadsBack
  intro e
  cases e with
  | reset => exact ⟨by decide, rfl⟩
  | tick => exact ⟨by decide, rfl⟩
  | rx d => exact ⟨readLine_byte d (by decide) (by decide) (.inl rfl), rfl⟩
  | rxt d => exact ⟨readLine_byte d (by decide) (by decide) (.inr rfl), rfl⟩

end Sys2Proof.Machine
end

section
/-! PROOFS. One event at a time: what it does by its kind, when it goes on (R70, R92), what it does to
`COUNT` (R85, R87), to the DAC outputs (R101) and to the parameters (R28). -/

namespace Sys2Proof.Machine

open Sys2Proof.Laws

/-! An event by its kind, whatever its word. -/

theorem perform_of_reset {w : EventWord} (s : State) (hk : wordKind w = kindReset) :
    perform w s = .next (resetBlock s) := by
  rw [← mkWord_wordKind_wordData w, hk, perform_reset]

theorem perform_of_tick {w : EventWord} (s : State) (hk : wordKind w = kindTick) :
    perform w s = .next (dacWrite s.sample s) := by
  rw [← mkWord_wordKind_wordData w, hk, perform_tick]

theorem perform_of_rx {w : EventWord} {s : State} {op : RxOp} (hk : wordKind w = kindRx)
    (hs : selectRx (wordData w) s.count = some op) :
    perform w s = .next (performRx op (wordData w) s) := by
  rw [← mkWord_wordKind_wordData w, hk, perform_rx, hs, wordData_mkWord]

theorem perform_of_rxt {w : EventWord} {s : State} {op : RxOp} (hk : wordKind w = kindRxt)
    (hs : selectRx (wordData w) s.count = some op) :
    perform w s =
      .next (performRx op (wordData w) (dacWrite (coincidentCode op s) (countDraw op s))) := by
  rw [← mkWord_wordKind_wordData w, hk, perform_rxt, wordData_mkWord, exec_rxt_of_select hs]

/-- Everything an RXT that goes on can have done (R124). -/
theorem exec_rxt_next {d : Byte} {s t : State} (h : exec (.rxt d) s = .next t) :
    ∃ op, selectRx d s.count = some op ∧
      t = performRx op d (dacWrite (coincidentCode op s) (countDraw op s)) := by
  cases hs : selectRx d s.count with
  | none => simp [exec, execRxt, hs] at h
  | some op =>
    rw [exec_rxt_of_select hs] at h
    exact ⟨op, rfl, (Host.Outcome.next.inj h).symm⟩

/-! The reserved `COUNT` (R69, R70). -/

theorem exec_rxt_reserved {s : State} (d : Byte) (hc : s.count = 3#2) :
    exec (.rxt d) s = .fault (.unreachable .count3) := by
  simp [exec, execRxt, hc]

theorem perform_reserved {w : EventWord} {s : State} (hk : wordKind w = kindRx ∨ wordKind w = kindRxt)
    (hc : s.count = 3#2) : perform w s = .fault (.unreachable .count3) := by
  rw [← mkWord_wordKind_wordData w]
  rcases hk with hk | hk <;> rw [hk]
  · exact perform_rx_reserved (wordData w) hc
  · rw [perform_rxt, exec_rxt_reserved _ hc]

/-- A legal `COUNT` selects an operation for every byte (R92). -/
theorem selectRx_of_legal {c : Count} (d : Byte) (hc : c ≠ 3#2) : ∃ op, selectRx d c = some op :=
  Option.ne_none_iff_exists'.1 (mt selectRx_none.1 hc)

theorem performRx_legal {s : State} (op : RxOp) (d : Byte) (hc : s.count ≠ 3#2) :
    (performRx op d s).count ≠ 3#2 := by
  cases op <;> simp [hc]

/-- From a legal `COUNT` every event goes on (R92, R120). -/
theorem perform_goes_on {s : State} (w : EventWord) (hc : s.count ≠ 3#2) : ∃ t, perform w s = .next t := by
  obtain ⟨op, hs⟩ := selectRx_of_legal (wordData w) hc
  rcases kind_cases (wordKind w) with hk | hk | hk | hk
  · exact ⟨_, perform_of_rx hk hs⟩
  · exact ⟨_, perform_of_tick s hk⟩
  · exact ⟨_, perform_of_reset s hk⟩
  · exact ⟨_, perform_of_rxt hk hs⟩

/-- I1 of R30, one event. -/
theorem perform_legal {w : EventWord} {s t : State} (hc : s.count ≠ 3#2) (h : perform w s = .next t) :
    t.count ≠ 3#2 := by
  rcases perform_cases h with ⟨-, rfl⟩ | ⟨-, rfl⟩ | ⟨-, op, -, rfl⟩ | ⟨-, op, -, rfl⟩
  · simp
  · exact hc
  · exact performRx_legal op _ hc
  · exact performRx_legal (s := dacWrite (coincidentCode op s) (countDraw op s)) op _ hc

/-- Settles O42: one event goes on to a legal `COUNT`, and so by induction does every list of them. -/
theorem everyEventStreamIsAccepted : Obligations.EveryEventStreamIsAccepted := by
  unfold Obligations.EveryEventStreamIsAccepted
  intro ws
  induction ws with
  | nil => exact fun s hc => ⟨s, rfl, hc⟩
  | cons w ws ih =>
    intro s hc
    obtain ⟨m, hm⟩ := perform_goes_on w hc
    obtain ⟨t, hrun, ht⟩ := ih m (perform_legal hc hm)
    exact ⟨t, (runWords_cons_of_next hm).trans hrun, ht⟩

/-! The cells of the transition table (R85) and the data bytes below it (R87). -/

/-- Settles O19: the key of RX(d) by row of R64, and the state after it by `COUNT`. -/
theorem countFollowsTheTransitionTable : Obligations.CountFollowsTheTransitionTable := by
  unfold Obligations.CountFollowsTheTransitionTable
  intro s d
  have hkey : decodeKey (keyOf (eventWord (.rx d)) s.count) = decodeKey (mkKey kindRx s.count d) := by
    rw [eventWord, keyOf_mkWord]
  rw [hkey, decodeKey_rx]
  refine ⟨fun hc => ?_, fun hc => ?_, fun hc hd => ?_, fun hc hd => ?_, ?_⟩
  · exact ⟨by simp [hc], _, perform_rx_empty d hc, rfl, rfl⟩
  · exact ⟨by simp [hc], _, perform_rx_oneByte d hc, rfl, rfl⟩
  · subst hd
    exact ⟨by simp [hc], _, perform_rx_full_sentinel hc, rfl, rfl⟩
  · have hd' : d ≠ 0#8 := hd
    exact ⟨by simp [hc, hd'], _, perform_rx_full_data hc hd, hc, rfl⟩
  · exact ⟨_, perform_reset 0 s, rfl⟩

/-- The state after an event with an RX part: the framer operation on a state that the TICK part may have
changed in `DAC_OUT`, the log and the draws, and in nothing else. -/
theorem perform_byte {w : EventWord} {s : State} {op : RxOp}
    (hk : wordKind w = kindRx ∨ wordKind w = kindRxt)
    (hs : selectRx (wordData w) s.count = some op) :
    ∃ m, perform w s = .next (performRx op (wordData w) m) ∧ framerView m = framerView s := by
  rcases hk with hk | hk
  · exact ⟨s, perform_of_rx hk hs, rfl⟩
  · exact ⟨_, perform_of_rxt hk hs, rfl⟩

theorem framerView_eq_iff {s t : State} :
    framerView s = framerView t ↔
      s.count = t.count ∧ s.buf0 = t.buf0 ∧ s.buf1 = t.buf1 ∧ s.sample = t.sample := by
  simp [framerView]

/-- Settles O20: below a full buffer the operation selected is an append, for 0x00 as for any byte. -/
theorem zeroByteBelowFullIsData : Obligations.ZeroByteBelowFullIsData := by
  unfold Obligations.ZeroByteBelowFullIsData
  intro s w hc hk hd
  have hcount : s.count = 0#2 ∨ s.count = 1#2 := by
    rcases count_cases s.count with h | h | h | h <;> simp [h] at hc ⊢
  rcases hcount with h | h
  · obtain ⟨m, hm, hv⟩ := perform_byte hk (h ▸ selectRx_empty (wordData w))
    obtain ⟨-, -, hbuf1, hsample⟩ := framerView_eq_iff.1 hv
    exact ⟨_, hm, hsample, by simp [h], fun _ => ⟨hd, hbuf1⟩, fun h1 => by simp [h] at h1⟩
  · obtain ⟨m, hm, hv⟩ := perform_byte hk (h ▸ selectRx_oneByte (wordData w))
    obtain ⟨-, hbuf0, -, hsample⟩ := framerView_eq_iff.1 hv
    exact ⟨_, hm, hsample, by simp [h], fun h0 => by simp [h] at h0, fun _ => ⟨hd, hbuf0⟩⟩

/-! DAC writes (R101). -/

/-- An event with a TICK part logs what it writes. -/
theorem perform_ticks_log {w : EventWord} {s t : State} (h : perform w s = .next t)
    (hk : wordKind w = kindTick ∨ wordKind w = kindRxt) : t.log = s.log ++ [t.dacOut] := by
  rcases perform_cases h with ⟨hk', -⟩ | ⟨-, rfl⟩ | ⟨hk', -⟩ | ⟨-, op, -, rfl⟩
  · simp [hk', kindTick, kindReset, kindRxt] at hk
  · rfl
  · simp [hk', kindTick, kindRx, kindRxt] at hk
  · obtain ⟨hdac, hlog, -⟩ :=
      performRx_frame op (wordData w) (dacWrite (coincidentCode op s) (countDraw op s))
    rw [hdac, hlog]
    rfl

/-- An RX event makes no DAC write. -/
theorem perform_rx_keeps_dac {w : EventWord} {s t : State} (h : perform w s = .next t)
    (hk : wordKind w = kindRx) : t.log = s.log ∧ t.dacOut = s.dacOut := by
  rcases perform_cases h with ⟨hk', -⟩ | ⟨hk', -⟩ | ⟨-, op, -, rfl⟩ | ⟨hk', -⟩
  · simp [hk, kindRx, kindReset] at hk'
  · simp [hk, kindRx, kindTick] at hk'
  · obtain ⟨hdac, hlog, -⟩ := performRx_frame op (wordData w) s
    exact ⟨hlog, hdac⟩
  · simp [hk, kindRx, kindRxt] at hk'

/-- The peripheral holds the code logged last. -/
theorem analogOutput_of_log {t : State} {l : List Sample} {c : Sample} (h : t.log = l ++ [c]) :
    analogOutput t = Config.dacSat (dacValue c) := by
  simp [analogOutput, heldCode, h]

/-- Settles O30. -/
theorem oneDacWritePerTick : Obligations.OneDacWritePerTick := by
  unfold Obligations.OneDacWritePerTick
  intro w s t h
  refine ⟨fun hk => ?_, perform_rx_keeps_dac h, fun hk => ?_⟩
  · exact ⟨perform_ticks_log h hk, analogOutput_of_log (perform_ticks_log h hk)⟩
  · obtain rfl := Host.Outcome.next.inj ((perform_of_reset s hk).symm.trans h)
    exact ⟨rfl, rfl⟩

/-- `DAC_OUT` stays tied to the log, whatever the event. -/
theorem perform_dacOutTracksLog {w : EventWord} {s t : State} (hd : DacOutTracksLog s)
    (h : perform w s = .next t) : DacOutTracksLog t := by
  rcases kind_cases (wordKind w) with hk | hk | hk | hk
  · obtain ⟨hlog, hdac⟩ := perform_rx_keeps_dac h hk
    rwa [DacOutTracksLog, hlog, hdac]
  · exact .inr (by rw [perform_ticks_log h (.inl hk)]; simp)
  · obtain rfl := Host.Outcome.next.inj ((perform_of_reset s hk).symm.trans h)
    exact .inl rfl
  · exact .inr (by rw [perform_ticks_log h (.inr hk)]; simp)

/-! The step. -/

/-- A property that neither delivering an event nor performing it breaks is kept by every step. -/
theorem step_keeps {P : State → Prop} (hscript : ∀ s ws, P s → P { s with script := ws })
    (hperform : ∀ w s t, P s → perform w s = .next t → P t) {s t : State} (hs : P s)
    (h : step s = .next t) : P t := by
  cases hw : s.script with
  | nil =>
    obtain rfl := Host.Outcome.next.inj ((step_idle hw).symm.trans h)
    exact hs
  | cons w ws => exact hperform w _ t (hscript s ws hs) ((step_event hw).symm.trans h)

/-- Settles O40: neither half of the invariant reads the script, and every event keeps both. -/
theorem everyStepKeepsTheInvariant : Obligations.EveryStepKeepsTheInvariant := by
  unfold Obligations.EveryStepKeepsTheInvariant
  intro s t hinv h
  refine step_keeps (P := Inv) (fun _ _ hs => hs) (fun w s t hs hp => ?_) hinv h
  obtain ⟨hc, hd⟩ := hs
  exact ⟨perform_legal hc hp, perform_dacOutTracksLog hd hp⟩

/-- Settles O41. -/
theorem invariantHoldsAtReset : Obligations.InvariantHoldsAtReset := by
  unfold Obligations.InvariantHoldsAtReset
  exact ⟨by decide, .inl rfl⟩

/-- Settles O10. -/
theorem stepRunsTheDecodedOperation : Obligations.StepRunsTheDecodedOperation := by
  unfold Obligations.StepRunsTheDecodedOperation
  intro s w ws i hw hi
  rw [step_event hw, perform, fetchKey, hi]

/-- Settles O11. -/
theorem stepWaitsWithoutAnEvent : Obligations.StepWaitsWithoutAnEvent := by
  unfold Obligations.StepWaitsWithoutAnEvent
  exact fun _ => step_idle

/-! The host's run. -/

theorem run_core_of_next {s t : State} (n : Nat) (h : step s = .next t) :
    Host.Core.run Sys2Proof.core (n + 1) s = Host.Core.run Sys2Proof.core n t := by
  have hstep : Sys2Proof.core.step s = .next t := h
  simp only [Host.Core.run, hstep]

theorem run_core_of_fault {s : State} {r : Fault} (n : Nat) (h : step s = .fault r) :
    Host.Core.run Sys2Proof.core (n + 1) s = .fault r := by
  have hstep : Sys2Proof.core.step s = .fault r := h
  simp only [Host.Core.run, hstep]

theorem perform_script_of_next {w : EventWord} {s t : State} (ws : List EventWord)
    (h : perform w s = .next t) : perform w { s with script := ws } = .next { t with script := ws } := by
  rw [perform_script, h]

theorem perform_script_of_fault {w : EventWord} {s : State} {r : Fault} (ws : List EventWord)
    (h : perform w s = .fault r) : perform w { s with script := ws } = .fault r := by
  rw [perform_script, h]

theorem runWords_cons_of_fault {w : EventWord} {ws : List EventWord} {s : State} {r : Fault}
    (h : perform w s = .fault r) : runWords (w :: ws) s = .fault r := by simp [runWords, h]

/-- Settles O12: by induction on the events; the script an event is performed with passes through it. -/
theorem stepsOverAScriptAreTheRunOfItsEvents : Obligations.StepsOverAScriptAreTheRunOfItsEvents := by
  unfold Obligations.StepsOverAScriptAreTheRunOfItsEvents
  intro ws rest
  induction ws with
  | nil => exact fun s => rfl
  | cons w ws ih =>
    intro s
    have hstep : step { s with script := w :: ws ++ rest } = perform w { s with script := ws ++ rest } :=
      step_event rfl
    cases hp : perform w s with
    | next t =>
      rw [List.length_cons, run_core_of_next _ (hstep.trans (perform_script_of_next _ hp)), ih t,
        runWords_cons_of_next (perform_script_of_next _ hp)]
    | fault r =>
      exact (run_core_of_fault _ (hstep.trans (perform_script_of_fault _ hp))).trans
        (runWords_cons_of_fault (perform_script_of_fault _ hp)).symm
    | refused r => exact absurd hp (perform_not_refused w s r)

/-- Settles O13: the first step faults, and a run stops at a fault. -/
theorem reservedCountFaultsForGood : Obligations.ReservedCountFaultsForGood := by
  unfold Obligations.ReservedCountFaultsForGood
  intro s w ws hc hw hk
  have hstep : step s = .fault (.unreachable .count3) := (step_event hw).trans (perform_reserved hk hc)
  exact ⟨hstep, fun n => run_core_of_fault n hstep⟩

/-! The parameters and the timing ones among them (R28). -/

theorem perform_params {w : EventWord} {s t : State} (h : perform w s = .next t) : t.params = s.params := by
  rcases perform_cases h with ⟨-, rfl⟩ | ⟨-, rfl⟩ | ⟨-, op, -, rfl⟩ | ⟨-, op, -, rfl⟩
  · rfl
  · rfl
  · cases op <;> rfl
  · cases op <;> rfl

/-- An operation performed with other timing parameters goes on to the same state with those parameters. -/
theorem exec_retime (rate : Rat) (baud : Nat) (format : UartFraming) (i : Instr) (s : State) :
    nextOf (exec i (retime rate baud format s)) = (nextOf (exec i s)).map (retime rate baud format) := by
  cases i with
  | rxt d =>
    have hc : (retime rate baud format s).count = s.count := rfl
    cases hs : selectRx d s.count with
    | none =>
      have hcount := selectRx_none.1 hs
      rw [exec_rxt_reserved d hcount, exec_rxt_reserved d (hc.trans hcount)]
      rfl
    | some op =>
      rw [exec_rxt_of_select hs, exec_rxt_of_select (hc ▸ hs)]
      cases op <;> rfl
  | _ => rfl

theorem perform_retime (rate : Rat) (baud : Nat) (format : UartFraming) (w : EventWord) (s : State) :
    nextOf (perform w (retime rate baud format s)) =
      (nextOf (perform w s)).map (retime rate baud format) := by
  have hk : fetchKey w (retime rate baud format s) = fetchKey w s := rfl
  rw [perform, perform, hk]
  cases decodeKey (fetchKey w s) with
  | error r => rfl
  | ok i => exact exec_retime rate baud format i s

/-- Settles O44. -/
theorem parametersAreFixedAndTimingOnesUnread : Obligations.ParametersAreFixedAndTimingOnesUnread := by
  unfold Obligations.ParametersAreFixedAndTimingOnesUnread
  refine ⟨fun s t h => ?_, fun rate baud format s => ?_⟩
  · exact step_keeps (P := fun u => u.params = s.params) (fun _ _ hu => hu)
      (fun _ _ _ hu hp => (perform_params hp).trans hu) rfl h
  · have hscript : (retime rate baud format s).script = s.script := rfl
    cases hw : s.script with
    | nil => rw [step_idle hw, step_idle (hscript.trans hw)]; rfl
    | cons w ws =>
      rw [step_event hw, step_event (hscript.trans hw)]
      exact perform_retime rate baud format w { s with script := ws }

end Sys2Proof.Machine
end

section
/-! PROOFS. Runs of received bytes: whole frames (R88), the one-frame law (R90), and the streams that
come back in step or never do (R91, R154). -/

namespace Sys2Proof.Machine

open Sys2Proof.Laws

/-! Runs and what they publish. -/

/-- The run over `ws` from `s` goes on to `t` and publishes the samples `vs`. -/
def RunPublishes (ws : List EventWord) (s t : State) (vs : List Sample) : Prop :=
  runWords ws s = .next t ∧ published ws s = vs

theorem RunPublishes.nil (s : State) : RunPublishes [] s s [] := ⟨rfl, rfl⟩

theorem RunPublishes.cons {w : EventWord} {ws : List EventWord} {s m t : State} {vs : List Sample}
    (hp : perform w s = .next m) (h : RunPublishes ws m t vs) :
    RunPublishes (w :: ws) s t ((if publishes w s then [m.sample] else []) ++ vs) := by
  obtain ⟨hrun, rfl⟩ := h
  exact ⟨(runWords_cons_of_next hp).trans hrun, published_cons hp⟩

theorem RunPublishes.append {us ws : List EventWord} {s m t : State} {vs vs' : List Sample}
    (h : RunPublishes us s m vs) (h' : RunPublishes ws m t vs') :
    RunPublishes (us ++ ws) s t (vs ++ vs') := by
  obtain ⟨hrun, rfl⟩ := h
  obtain ⟨hrun', rfl⟩ := h'
  exact ⟨runWords_append_next.2 ⟨m, hrun, hrun'⟩, published_append hrun⟩

theorem rxsWords_cons (d : Byte) (bs : List Byte) :
    rxsWords (d :: bs) = eventWord (.rx d) :: rxsWords bs := rfl

/-! One more byte at the head of a stream of received bytes, by the operation it selects (R81 to R84). -/

section
variable {s t : State} {d : Byte} {bs : List Byte} {vs : List Sample}

theorem RunPublishes.append0 (hc : s.count = 0#2)
    (h : RunPublishes (rxsWords bs) (appendFirst d s) t vs) : RunPublishes (rxsWords (d :: bs)) s t vs := by
  have hcons := RunPublishes.cons (perform_rx_empty d hc) h
  simpa [rxsWords_cons, publishes_rx, hc] using hcons

theorem RunPublishes.append1 (hc : s.count = 1#2)
    (h : RunPublishes (rxsWords bs) (appendSecond d s) t vs) : RunPublishes (rxsWords (d :: bs)) s t vs := by
  have hcons := RunPublishes.cons (perform_rx_oneByte d hc) h
  simpa [rxsWords_cons, publishes_rx, hc] using hcons

theorem RunPublishes.term (hc : s.count = 2#2) (h : RunPublishes (rxsWords bs) (publish s) t vs) :
    RunPublishes (rxsWords (0#8 :: bs)) s t (assemble s.buf1 s.buf0 :: vs) := by
  have hcons := RunPublishes.cons (perform_rx_full_sentinel hc) h
  simpa [rxsWords_cons, publishes_rx, hc] using hcons

theorem RunPublishes.drop (hc : s.count = 2#2) (hd : d ≠ 0#8) (h : RunPublishes (rxsWords bs) s t vs) :
    RunPublishes (rxsWords (d :: bs)) s t vs := by
  have hcons := RunPublishes.cons (perform_rx_full_data hc hd) h
  simpa [rxsWords_cons, publishes_rx, hd] using hcons

end

/-! One whole frame from each `COUNT` (R90). -/

section
variable {s : State} {b0 b1 : Byte}

/-- In step: the frame's own bytes are published. -/
theorem frame_from_empty (hc : s.count = 0#2) :
    RunPublishes (rxsWords [b0, b1, 0#8]) s (publish (appendSecond b1 (appendFirst b0 s)))
      [assemble b1 b0] :=
  .append0 hc (.append1 rfl (.term rfl (.nil _)))

/-- One byte ahead: byte0 fills the buffer, byte1 is dropped, and the terminator publishes. -/
theorem frame_from_oneByte (hc : s.count = 1#2) (h1 : b1 ≠ 0#8) :
    RunPublishes (rxsWords [b0, b1, 0#8]) s (publish (appendSecond b0 s)) [assemble b0 s.buf0] :=
  .append1 hc (.drop rfl h1 (.term rfl (.nil _)))

/-- One byte ahead, and byte1 is taken for the terminator. -/
theorem frame_from_oneByte_zero (hc : s.count = 1#2) :
    RunPublishes (rxsWords [b0, 0#8, 0#8]) s (appendFirst 0#8 (publish (appendSecond b0 s)))
      [assemble b0 s.buf0] :=
  .append1 hc (.term rfl (.append0 rfl (.nil _)))

/-- From a full buffer: both data bytes are dropped, and the terminator publishes the stale buffer. -/
theorem frame_from_full (hc : s.count = 2#2) (h0 : b0 ≠ 0#8) (h1 : b1 ≠ 0#8) :
    RunPublishes (rxsWords [b0, b1, 0#8]) s (publish s) [assemble s.buf1 s.buf0] :=
  .drop hc h0 (.drop hc h1 (.term hc (.nil _)))

/-- From a full buffer: byte1 is taken for the terminator. -/
theorem frame_from_full_second_zero (hc : s.count = 2#2) (h0 : b0 ≠ 0#8) :
    RunPublishes (rxsWords [b0, 0#8, 0#8]) s (appendFirst 0#8 (publish s)) [assemble s.buf1 s.buf0] :=
  .drop hc h0 (.term hc (.append0 rfl (.nil _)))

/-- From a full buffer: byte0 is taken for the terminator. -/
theorem frame_from_full_first_zero (hc : s.count = 2#2) :
    RunPublishes (rxsWords [0#8, b1, 0#8]) s (appendSecond 0#8 (appendFirst b1 (publish s)))
      [assemble s.buf1 s.buf0] :=
  .term hc (.append0 rfl (.append1 rfl (.nil _)))

/-- The one-frame outcome of a run of the frame that leaves the DAC outputs. -/
theorem frameOutcome_of_run {t : State} {vs : List Sample}
    (h : RunPublishes (rxsWords [b0, b1, 0#8]) s t vs) (hsample : t.sample = vs.getLast?.getD s.sample)
    (hdac : t.dacOut = s.dacOut) (hlog : t.log = s.log) :
    FrameOutcome s b0 b1 vs t.count t.buf0 t.buf1 := by
  obtain ⟨hrun, hpub⟩ := h
  exact ⟨t, hrun, hpub, rfl, rfl, rfl, hsample, hdac, hlog⟩

end

/-- Settles O24: each row is a run of the frame worked out above; a frame of two non-zero bytes meets the
first row of each `COUNT`. -/
theorem oneFrameFromEveryCount : Obligations.OneFrameFromEveryCount := by
  unfold Obligations.OneFrameFromEveryCount
  intro s b0 b1
  have row1 : s.count = 0 → FrameOutcome s b0 b1 [b1 ++ b0] 0 b0 b1 := fun hc =>
    frameOutcome_of_run (frame_from_empty hc) rfl rfl rfl
  have row2 : s.count = 1 → b1 ≠ 0x00 → FrameOutcome s b0 b1 [b0 ++ s.buf0] 0 s.buf0 b0 := fun hc h1 =>
    frameOutcome_of_run (frame_from_oneByte hc h1) rfl rfl rfl
  have row4 : s.count = 2 → b0 ≠ 0x00 → b1 ≠ 0x00 →
      FrameOutcome s b0 b1 [s.buf1 ++ s.buf0] 0 s.buf0 s.buf1 := fun hc h0 h1 =>
    frameOutcome_of_run (frame_from_full hc h0 h1) rfl rfl rfl
  refine ⟨row1, row2, ?_, row4, ?_, ?_, fun hc h0 h1 => ?_⟩
  · rintro hc rfl
    exact frameOutcome_of_run (frame_from_oneByte_zero hc) rfl rfl rfl
  · rintro hc h0 rfl
    exact frameOutcome_of_run (frame_from_full_second_zero hc h0) rfl rfl rfl
  · rintro hc rfl
    exact frameOutcome_of_run (frame_from_full_first_zero hc) rfl rfl rfl
  · rcases count_cases s.count with h | h | h | h
    · exact ⟨_, _, _, row1 h⟩
    · exact ⟨_, _, _, row2 h h1⟩
    · exact ⟨_, _, _, row4 h h0 h1⟩
    · exact absurd h hc

/-! Streams of whole frames from `COUNT` = 0 (R88). -/

theorem frameWords_from_empty {s : State} (v : Int) (hc : s.count = 0#2) :
    ∃ t, RunPublishes (frameWords v) s t [sampleOfInt v] ∧ t.count = 0#2 ∧ t.sample = sampleOfInt v := by
  have hframe := frame_from_empty (b0 := lowByte (sampleOfInt v)) (b1 := highByte (sampleOfInt v)) hc
  rw [assemble_bytes] at hframe
  exact ⟨_, hframe, rfl, assemble_bytes _⟩

/-- A stream of whole frames publishes their words in order, `COUNT` being 0 again after each. -/
theorem frames_from_empty (vs : List Int) {s : State} (hc : s.count = 0#2) :
    ∃ t, RunPublishes (vs.flatMap frameWords) s t (vs.map sampleOfInt) ∧ t.count = 0#2 ∧
      t.sample = (vs.map sampleOfInt).getLast?.getD s.sample := by
  induction vs generalizing s with
  | nil => exact ⟨s, .nil s, hc, rfl⟩
  | cons v vs ih =>
    obtain ⟨m, hframe, hm, hsample⟩ := frameWords_from_empty v hc
    obtain ⟨t, hrun, ht, hlast⟩ := ih hm
    refine ⟨t, hframe.append hrun, ht, ?_⟩
    rw [List.map_cons, List.getLast?_cons, hlast, hsample, Option.getD_some]

/-- Settles O23: the word of each value, read as signed, is the value. -/
theorem wholeFramesPublishTheirValuesInOrder : Obligations.WholeFramesPublishTheirValuesInOrder := by
  unfold Obligations.WholeFramesPublishTheirValuesInOrder
  intro vs s hc hvs
  obtain ⟨t, ⟨hrun, hpub⟩, ht, hsample⟩ := frames_from_empty vs hc
  have hvalues : (vs.map sampleOfInt).map BitVec.toInt = vs := by
    rw [List.map_map]
    exact (List.map_congr_left (g := id) fun v hv =>
      sampleOfInt_toInt (hvs v hv).1 (hvs v hv).2).trans (List.map_id vs)
  refine ⟨t, hrun, ht, hpub ▸ hvalues, ?_⟩
  calc t.sample.toInt = ((vs.map sampleOfInt).map BitVec.toInt).getLast?.getD s.sample.toInt := by
        rw [hsample, List.getLast?_map (f := BitVec.toInt), Option.getD_map]
    _ = vs.getLast?.getD s.sample.toInt := by rw [hvalues]

/-! Frames that never come back in step (R91). -/

/-- Each frame publishes what the frame before it left in the buffer, 0x00 above its byte1, and leaves the
buffer full again. -/
theorem zero_first_frames (b : Byte) (bs : List Byte) {s : State} (hc : s.count = 2#2) :
    ∃ t, RunPublishes ((b :: bs).flatMap fun b1 => rxsWords [0#8, b1, 0#8]) s t
      (assemble s.buf1 s.buf0 :: (b :: bs).dropLast.map fun b1 => assemble 0#8 b1) ∧ t.count = 2#2 := by
  induction bs generalizing b s with
  | nil => exact ⟨_, frame_from_full_first_zero hc, rfl⟩
  | cons b' bs ih =>
    obtain ⟨t, hrun, ht⟩ := ih b' (s := appendSecond 0#8 (appendFirst b (publish s))) rfl
    exact ⟨t, (frame_from_full_first_zero hc).append hrun, ht⟩

/-- Settles O25: the example is the stream of frames whose byte1 is 1. -/
theorem zeroFirstFramesNeverResynchronise : Obligations.ZeroFirstFramesNeverResynchronise := by
  unfold Obligations.ZeroFirstFramesNeverResynchronise
  constructor
  · intro b bs s hc
    obtain ⟨t, ⟨hrun, hpub⟩, ht⟩ := zero_first_frames b bs hc
    exact ⟨t, hrun, ht, hpub⟩
  · intro n s hc
    have hwords : (List.replicate (n + 1) (frameWords 256)).flatten =
        (1#8 :: List.replicate n 1#8).flatMap fun b1 => rxsWords [0#8, b1, 0#8] := by
      rw [← List.replicate_succ, List.flatMap, List.map_replicate]
      rfl
    have hsamples : ((1#8 :: List.replicate n 1#8).dropLast.map fun b1 => assemble 0#8 b1) =
        List.replicate n (1 : Sample) := by
      rw [← List.replicate_succ, List.dropLast_replicate, List.map_replicate]
      rfl
    obtain ⟨t, ⟨hrun, hpub⟩, ht⟩ := zero_first_frames 1#8 (List.replicate n 1#8) hc
    rw [← hwords] at hrun hpub
    rw [hsamples] at hpub
    exact ⟨t, hrun, ht, hpub⟩

/-! Entering a stream in mid-frame (R154). -/

/-- RESET and then a stream entered at byte1: the terminator is taken for the second data byte, and the
next frame meets a full buffer. -/
theorem enter_at_byte1 (s : State) (b1 : Byte) :
    RunPublishes (eventWord .reset :: rxsWords [b1, 0#8]) s
      (appendSecond 0#8 (appendFirst b1 (resetBlock s))) [] :=
  .cons (perform_reset 0 s) (.append0 rfl (.append1 rfl (.nil _)))

/-- RESET and then a stream entered at the terminator: it is taken for the first data byte. -/
theorem enter_at_terminator (s : State) :
    RunPublishes (eventWord .reset :: rxsWords [0#8]) s (appendFirst 0#8 (resetBlock s)) [] :=
  .cons (perform_reset 0 s) (.append0 rfl (.nil _))

/-- Settles O28: the frame after the entry is one of the one-frame law, met at `COUNT` = 2 or 1. -/
theorem midStreamEntryPublishesABogusSample : Obligations.MidStreamEntryPublishesABogusSample := by
  unfold Obligations.MidStreamEntryPublishesABogusSample
  intro s b1 c0 c1
  refine ⟨fun h0 h1 => ?_, fun h1 => ?_, fun hzero => ?_, ?_⟩
  · obtain ⟨hrun, hpub⟩ := (enter_at_byte1 s b1).append (frame_from_full rfl h0 h1)
    exact ⟨_, hrun, rfl, hpub⟩
  · obtain ⟨hrun, hpub⟩ := (enter_at_terminator s).append (frame_from_oneByte (b0 := c0) rfl h1)
    exact ⟨_, hrun, rfl, hpub⟩
  · by_cases h0 : c0 = 0#8
    · subst h0
      obtain ⟨hrun, -⟩ := (enter_at_byte1 s b1).append (frame_from_full_first_zero (b1 := c1) rfl)
      exact ⟨_, hrun, by simp⟩
    · obtain rfl : c1 = 0#8 := hzero.resolve_left h0
      obtain ⟨hrun, -⟩ := (enter_at_byte1 s b1).append (frame_from_full_second_zero rfl h0)
      exact ⟨_, hrun, by simp⟩
  · rintro rfl
    obtain ⟨hrun, -⟩ := (enter_at_terminator s).append (frame_from_oneByte_zero (b0 := c0) rfl)
    exact ⟨_, hrun, by simp⟩

end Sys2Proof.Machine
end

section
/-! PROOFS. What runs keep and build up: the buffer's history (R30), the last published sample and what the
ticks repeat of it (R48, R106, R107), and the next tick after a frame (R141). -/

namespace Sys2Proof.Machine

open Sys2Proof.Laws

/-! Runs that are not reset and publish nothing. -/

/-- The first event of such a run, and the rest of it. -/
theorem unpublished_cons {w : EventWord} {ws : List EventWord} {s t : State}
    (hr : noReset (w :: ws) = true) (hp : published (w :: ws) s = [])
    (h : runWords (w :: ws) s = .next t) :
    ∃ m, perform w s = .next m ∧ wordKind w ≠ kindReset ∧ publishes w s = false ∧
      noReset ws = true ∧ published ws m = [] ∧ runWords ws m = .next t := by
  obtain ⟨m, hm, hrun⟩ := runWords_cons_next h
  obtain ⟨hk, hr⟩ := noReset_cons.1 hr
  rw [published_cons hm] at hp
  obtain ⟨hw, hp⟩ := List.append_eq_nil_iff.1 hp
  exact ⟨m, hm, hk, by simpa using hw, hr, hp, hrun⟩

/-- Induction over such a run: a property of the events so far and the state after them that holds at the
start and that every further such event keeps. -/
theorem unpublished_run_induction {P : List EventWord → State → Prop} {ws : List EventWord} {s t : State}
    (hr : noReset ws = true) (hp : published ws s = []) (h : runWords ws s = .next t) (hstart : P [] s)
    (hevent : ∀ us w m m', P us m → wordKind w ≠ kindReset → publishes w m = false →
      perform w m = .next m' → P (us ++ [w]) m') : P ws t := by
  induction ws generalizing s P with
  | nil => cases h; exact hstart
  | cons w ws ih =>
    obtain ⟨m, hm, hk, hw, hr, hp, hrun⟩ := unpublished_cons hr hp h
    exact ih (P := fun us => P (w :: us)) hr hp hrun (hevent [] w s m hstart hk hw hm)
      fun us => hevent (w :: us)

/-! I2 of R30. -/

/-- The buffer holds the first of the bytes `bs`, as many as `COUNT` says; there are no others but behind a
full buffer. -/
structure BufferHistory (bs : List Byte) (s : State) : Prop where
  empty : s.count = 0#2 → bs = []
  oneByte : s.count = 1#2 → bs = [s.buf0]
  full : s.count = 2#2 → ∃ dropped, bs = s.buf0 :: s.buf1 :: dropped
  legal : s.count ≠ 3#2

theorem BufferHistory.congr {bs : List Byte} {s t : State} (h : BufferHistory bs s)
    (hv : framerView t = framerView s) : BufferHistory bs t := by
  obtain ⟨hcount, hbuf0, hbuf1, -⟩ := framerView_eq_iff.1 hv
  exact ⟨hcount ▸ h.empty, hcount ▸ hbuf0 ▸ h.oneByte, hcount ▸ hbuf0 ▸ hbuf1 ▸ h.full,
    hcount ▸ h.legal⟩

/-- A further byte that does not publish is stored behind the others, or dropped. -/
theorem BufferHistory.performRx {bs : List Byte} {s : State} {d : Byte} {op : RxOp}
    (h : BufferHistory bs s) (hs : selectRx d s.count = some op) (hop : op ≠ .term) :
    BufferHistory (bs ++ [d]) (performRx op d s) := by
  rcases selectRx_some hs with ⟨rfl, hc⟩ | ⟨rfl, hc⟩ | ⟨rfl, -⟩ | ⟨rfl, hc, -⟩
  · constructor <;> simp [h.empty hc]
  · constructor <;> simp [h.oneByte hc]
  · exact absurd rfl hop
  · obtain ⟨dropped, hbs⟩ := h.full hc
    constructor <;> simp [hc, hbs]

theorem receivedBytes_append (us ws : List EventWord) :
    receivedBytes (us ++ ws) = receivedBytes us ++ receivedBytes ws := by
  simp [receivedBytes]

/-- The bytes of one event: its data bits where it has an RX part, else none. -/
theorem receivedBytes_singleton (w : EventWord) :
    receivedBytes [w] = if wordKind w = kindRx ∨ wordKind w = kindRxt then [wordData w] else [] := by
  by_cases hk : wordKind w = kindRx ∨ wordKind w = kindRxt <;>
    simp [receivedBytes, hasByte, List.filter_cons, hk]

theorem BufferHistory.perform {bs : List Byte} {w : EventWord} {s t : State} (h : BufferHistory bs s)
    (hk : wordKind w ≠ kindReset) (hp : publishes w s = false) (hw : perform w s = .next t) :
    BufferHistory (bs ++ receivedBytes [w]) t := by
  rw [receivedBytes_singleton]
  by_cases hbyte : wordKind w = kindRx ∨ wordKind w = kindRxt
  · obtain ⟨op, hs⟩ := selectRx_of_legal (wordData w) h.legal
    have hop : op ≠ .term := fun hop => by simp [(publishes_iff_term hbyte hs).2 hop] at hp
    obtain ⟨m, hm, hv⟩ := perform_byte hbyte hs
    obtain rfl := Host.Outcome.next.inj (hm.symm.trans hw)
    rw [if_pos hbyte]
    exact (h.congr hv).performRx ((framerView_eq_iff.1 hv).1 ▸ hs) hop
  · have htick : wordKind w = kindTick := by
      rcases kind_cases (wordKind w) with h' | h' | h' | h' <;> simp_all
    obtain rfl := Host.Outcome.next.inj ((perform_of_tick s htick).symm.trans hw)
    rw [if_neg hbyte, List.append_nil]
    exact h.congr rfl

/-- Settles O26: the history is kept by every event of the run. -/
theorem bufferHoldsTheFirstBytesReceived : Obligations.BufferHoldsTheFirstBytesReceived := by
  unfold Obligations.BufferHoldsTheFirstBytesReceived
  intro ws s t hc hr hp h
  have hc' : s.count = 0#2 := hc
  have hstart : BufferHistory (receivedBytes []) s := by constructor <;> simp [hc', receivedBytes]
  obtain ⟨hempty, honeByte, hfull, hlegal⟩ : BufferHistory (receivedBytes ws) t :=
    unpublished_run_induction (P := fun us => BufferHistory (receivedBytes us)) hr hp h hstart
      fun us w m m' hus hk hw hm => receivedBytes_append us [w] ▸ hus.perform hk hw hm
  exact ⟨hempty, honeByte, hfull, hlegal⟩

/-! The last published sample. -/

/-- A run that is not reset ends with the last sample it published in `SAMPLE`, or with the one it began
with (R86). -/
theorem runWords_sample {ws : List EventWord} {s t : State} (hr : noReset ws = true)
    (h : runWords ws s = .next t) : t.sample = (published ws s).getLast?.getD s.sample := by
  induction ws generalizing s with
  | nil => cases h; rfl
  | cons w ws ih =>
    obtain ⟨m, hm, hrun⟩ := runWords_cons_next h
    obtain ⟨hk, hr⟩ := noReset_cons.1 hr
    have hsample := perform_sample hm
    rw [if_neg hk] at hsample
    rw [published_cons hm, ih hr hrun]
    cases hw : publishes w s with
    | true => simp [List.getLast?_cons]
    | false => simp [hsample, hw]

/-- After RESET and a run that is not reset, `SAMPLE` holds the last sample published since, or 0 (R48). -/
theorem sample_since_reset {us : List EventWord} {s m : State} (hr : noReset us = true)
    (h : runWords (eventWord .reset :: us) s = .next m) :
    m.sample = (published (eventWord .reset :: us) s).getLast?.getD 0 := by
  have hreset : perform (eventWord .reset) s = .next (resetBlock s) := perform_reset 0 s
  have hquiet : publishes (eventWord .reset) s = false := by
    simp [publishes, hasByte, eventWord, kindReset, kindRx, kindRxt]
  rw [runWords_cons_of_next hreset] at h
  rw [published_cons hreset, hquiet]
  exact runWords_sample hr h

/-! Ticks. -/

/-- An event with a TICK part writes `SAMPLE`, unless it publishes and the update is not atomic (R100,
R124). -/
theorem perform_ticks_sample {w : EventWord} {s t : State}
    (hk : wordKind w = kindTick ∨ wordKind w = kindRxt) (h : perform w s = .next t)
    (hwhole : publishes w s = true → s.params.sampleUpdateAtomic = true) : t.dacOut = s.sample := by
  rcases perform_cases h with ⟨hk', -⟩ | ⟨-, rfl⟩ | ⟨hk', -⟩ | ⟨hk', op, hs, rfl⟩
  · simp [hk', kindTick, kindReset, kindRxt] at hk
  · rfl
  · simp [hk', kindTick, kindRx, kindRxt] at hk
  · have htears : tears op s = false := by
      rw [Bool.eq_false_iff, ne_eq, tears_iff]
      rintro ⟨hop, hatomic⟩
      simp [hwhole ((publishes_iff_term (.inr hk') hs).2 hop)] at hatomic
    obtain ⟨hdac, -⟩ :=
      performRx_frame op (wordData w) (dacWrite (coincidentCode op s) (countDraw op s))
    rw [hdac, dacWrite_dacOut, coincidentCode_whole htears]

theorem tickCount_append (us ws : List EventWord) : tickCount (us ++ ws) = tickCount us + tickCount ws :=
  List.countP_append

theorem tickCount_singleton (w : EventWord) :
    tickCount [w] = if wordKind w = kindTick ∨ wordKind w = kindRxt then 1 else 0 := by
  simp [tickCount, List.countP_cons, hasTick]

/-- One event that is no RESET and does not publish logs `SAMPLE` once for its TICK part. -/
theorem perform_log_of_unpublished {w : EventWord} {s t : State} (hk : wordKind w ≠ kindReset)
    (hp : publishes w s = false) (h : perform w s = .next t) :
    t.log = s.log ++ List.replicate (tickCount [w]) s.sample := by
  rw [tickCount_singleton]
  by_cases htick : wordKind w = kindTick ∨ wordKind w = kindRxt
  · have hdac := perform_ticks_sample htick h fun hpub => by simp [hp] at hpub
    rw [if_pos htick, perform_ticks_log h htick, hdac, List.replicate_one]
  · have hrx : wordKind w = kindRx := by
      rcases kind_cases (wordKind w) with h' | h' | h' | h' <;> simp_all
    rw [if_neg htick, List.replicate_zero, List.append_nil, (perform_rx_keeps_dac h hrx).1]

/-- A run that is not reset and publishes nothing logs `SAMPLE` once a tick (R106, R107). -/
theorem runWords_log_of_unpublished {ws : List EventWord} {s t : State} (hr : noReset ws = true)
    (hp : published ws s = []) (h : runWords ws s = .next t) :
    t.log = s.log ++ List.replicate (tickCount ws) s.sample := by
  have hboth : t.sample = s.sample ∧ t.log = s.log ++ List.replicate (tickCount ws) s.sample :=
    unpublished_run_induction
      (P := fun us m => m.sample = s.sample ∧ m.log = s.log ++ List.replicate (tickCount us) s.sample)
      hr hp h ⟨rfl, by simp [tickCount]⟩ fun us w m m' ⟨hsample, hlog⟩ hk hw hm => by
        constructor
        · rw [perform_sample hm, if_neg hk, hw, ← hsample]
          rfl
        · rw [perform_log_of_unpublished hk hw hm, hlog, hsample, tickCount_append,
            List.replicate_add, List.append_assoc]
  exact hboth.2

/-- Settles O31. -/
theorem ticksRepeatTheLastPublishedSample : Obligations.TicksRepeatTheLastPublishedSample := by
  unfold Obligations.TicksRepeatTheLastPublishedSample
  intro us ws s m t hus hws hm hp h
  rw [← sample_since_reset hus hm]
  exact runWords_log_of_unpublished hws hp h

theorem runWords_params {ws : List EventWord} {s t : State} (h : runWords ws s = .next t) :
    t.params = s.params := by
  induction ws generalizing s with
  | nil => cases h; rfl
  | cons w ws ih =>
    obtain ⟨m, hm, hrun⟩ := runWords_cons_next h
    exact (ih hrun).trans (perform_params hm)

/-- Settles O32: the update is still atomic after the run, so the tick writes `SAMPLE`. -/
theorem atomicTickReadsTheLatestSample : Obligations.AtomicTickReadsTheLatestSample := by
  unfold Obligations.AtomicTickReadsTheLatestSample
  intro us w s m t hatomic hus hm hk h
  have hdac := perform_ticks_sample hk h fun _ => runWords_params hm ▸ hatomic
  exact ⟨hdac.trans (sample_since_reset hus hm), perform_ticks_log h hk⟩

/-- The voltage of the word of a value. -/
theorem dacValue_sampleOfInt {v : Int} (h : -32768 ≤ v) (h' : v ≤ 32767) :
    dacValue (sampleOfInt v) = (v : Rat) / 2048 := by
  rw [dacValue_eq, sampleOfInt_toInt h h']

/-- Settles O46: the frame leaves its word in `SAMPLE`, the run between keeps it, and the tick writes it. -/
theorem frameIsShownAtTheNextTick : Obligations.FrameIsShownAtTheNextTick := by
  unfold Obligations.FrameIsShownAtTheNextTick
  intro v ws s m t hc hlow hhigh hr hm hp h
  obtain ⟨m', ⟨hframe, -⟩, -, hsample⟩ := frameWords_from_empty v hc
  obtain rfl := Host.Outcome.next.inj (hframe.symm.trans hm)
  obtain ⟨k, hk, htick⟩ := runWords_append_next.1 h
  have hkeep : k.sample = sampleOfInt v := (runWords_sample_of_unpublished hr hp hk).trans hsample
  rw [runWords_cons_of_next (w := eventWord .tick) (perform_tick 0 k)] at htick
  obtain rfl := Host.Outcome.next.inj htick
  have hlog : (dacWrite k.sample k).log = k.log ++ [sampleOfInt v] := by rw [dacWrite_log, hkeep]
  refine ⟨by rw [hlog, List.getLast?_concat]; rfl, ?_⟩
  rw [analogOutput_of_log hlog, dacValue_sampleOfInt hlow hhigh]

end Sys2Proof.Machine
end

section
/-! PROOFS. What cannot be observed: stale bytes of the buffer (R30), and the ticks, of the framer (R2). -/

namespace Sys2Proof.Machine

open Sys2Proof.Laws

/-! Stale bytes of the buffer. -/

section
variable {s t : State}

theorem AgreeButStaleBuffer.resetBlock (h : AgreeButStaleBuffer s t) :
    AgreeButStaleBuffer (resetBlock s) (resetBlock t) := by
  obtain ⟨-, -, -, hlog, hdraws, hparams, hscript, -, -⟩ := h
  exact ⟨rfl, rfl, rfl, hlog, hdraws, hparams, hscript, fun _ => rfl, fun _ => rfl⟩

theorem AgreeButStaleBuffer.dacWrite (c : Sample) (h : AgreeButStaleBuffer s t) :
    AgreeButStaleBuffer (dacWrite c s) (dacWrite c t) := by
  obtain ⟨hcount, hsample, -, hlog, hdraws, hparams, hscript, hbuf0, hbuf1⟩ := h
  exact ⟨hcount, hsample, rfl, congrArg (· ++ [c]) hlog, hdraws, hparams, hscript, hbuf0, hbuf1⟩

theorem AgreeButStaleBuffer.tears_eq (op : RxOp) (h : AgreeButStaleBuffer s t) : tears op s = tears op t := by
  obtain ⟨-, -, -, -, -, hparams, -⟩ := h
  rw [tears, tears, hparams]

theorem AgreeButStaleBuffer.countDraw (op : RxOp) (h : AgreeButStaleBuffer s t) :
    AgreeButStaleBuffer (countDraw op s) (countDraw op t) := by
  have htears := h.tears_eq op
  obtain ⟨hcount, hsample, hdac, hlog, hdraws, hparams, hscript, hbuf0, hbuf1⟩ := h
  exact ⟨hcount, hsample, hdac, hlog, by rw [countDraw_draws, countDraw_draws, htears, hdraws], hparams,
    hscript, hbuf0, hbuf1⟩

/-- A tick reads bytes of the buffer only where it meets an RX_TERM, and then the buffer is full. -/
theorem AgreeButStaleBuffer.coincidentCode_eq {d : Byte} {op : RxOp} (h : AgreeButStaleBuffer s t)
    (hs : selectRx d s.count = some op) : coincidentCode op s = coincidentCode op t := by
  have htears := h.tears_eq op
  obtain ⟨-, hsample, -, -, hdraws, -, -, hbuf0, hbuf1⟩ := h
  cases hop : tears op s with
  | false => rw [coincidentCode_whole hop, coincidentCode_whole (htears ▸ hop), hsample]
  | true =>
    obtain ⟨rfl, -⟩ := tears_iff.1 hop
    obtain ⟨hfull, -⟩ : s.count = 2#2 ∧ d = 0#8 := by simpa using selectRx_some hs
    rw [coincidentCode_torn hop, coincidentCode_torn (htears ▸ hop), hsample, hdraws,
      hbuf0 (by simp [hfull]), hbuf1 hfull]

/-- The operation selected writes the byte that stops being stale, and reads none that is. -/
theorem AgreeButStaleBuffer.performRx {d : Byte} {op : RxOp} (h : AgreeButStaleBuffer s t)
    (hs : selectRx d s.count = some op) : AgreeButStaleBuffer (performRx op d s) (performRx op d t) := by
  obtain ⟨hcount, hsample, hdac, hlog, hdraws, hparams, hscript, hbuf0, hbuf1⟩ := h
  rcases selectRx_some hs with ⟨rfl, hc⟩ | ⟨rfl, hc⟩ | ⟨rfl, hc, -⟩ | ⟨rfl, hc, -⟩
  · exact ⟨rfl, hsample, hdac, hlog, hdraws, hparams, hscript, fun _ => rfl, fun hfull => by simp at hfull⟩
  · exact ⟨rfl, hsample, hdac, hlog, hdraws, hparams, hscript, fun _ => hbuf0 (by simp [hc]), fun _ => rfl⟩
  · have hassembled : assemble s.buf1 s.buf0 = assemble t.buf1 t.buf0 := by
      rw [hbuf0 (by simp [hc]), hbuf1 hc]
    exact ⟨rfl, hassembled, hdac, hlog, hdraws, hparams, hscript, fun hne => by simp at hne,
      fun hfull => by simp at hfull⟩
  · exact ⟨hcount, hsample, hdac, hlog, hdraws, hparams, hscript, hbuf0, hbuf1⟩

end

/-- One event: if one of two such states goes on, so does the other, to such a state again. -/
theorem AgreeButStaleBuffer.perform {w : EventWord} {s s' t : State} (h : AgreeButStaleBuffer s s')
    (hp : perform w s = .next t) : ∃ t', perform w s' = .next t' ∧ AgreeButStaleBuffer t t' := by
  obtain ⟨hcount, hsample, -⟩ := id h
  rcases perform_cases hp with ⟨hk, rfl⟩ | ⟨hk, rfl⟩ | ⟨hk, op, hs, rfl⟩ | ⟨hk, op, hs, rfl⟩
  · exact ⟨_, perform_of_reset s' hk, h.resetBlock⟩
  · exact ⟨_, perform_of_tick s' hk, hsample ▸ h.dacWrite s.sample⟩
  · exact ⟨_, perform_of_rx hk (hcount ▸ hs), h.performRx hs⟩
  · refine ⟨_, perform_of_rxt hk (hcount ▸ hs), ?_⟩
    rw [← h.coincidentCode_eq hs]
    exact ((h.countDraw op).dacWrite (coincidentCode op s)).performRx hs

/-- Settles O27: the relation is kept by every event of the run. -/
theorem staleBufferBytesAreUnobservable : Obligations.StaleBufferBytesAreUnobservable := by
  unfold Obligations.StaleBufferBytesAreUnobservable
  intro ws
  induction ws with
  | nil =>
    intro s s' t h hrun
    obtain rfl := Host.Outcome.next.inj hrun
    exact ⟨s', rfl, h⟩
  | cons w ws ih =>
    intro s s' t h hrun
    obtain ⟨m, hm, hrun⟩ := runWords_cons_next hrun
    obtain ⟨m', hm', hagree⟩ := h.perform hm
    obtain ⟨t', hrun', ht⟩ := ih m m' t hagree hrun
    exact ⟨t', (runWords_cons_of_next hm').trans hrun', ht⟩

/-! Ticks, seen from the framer. -/

theorem framerView_performRx {s s' : State} (op : RxOp) (d : Byte) (h : framerView s' = framerView s) :
    framerView (performRx op d s') = framerView (performRx op d s) := by
  obtain ⟨-, hbuf0, hbuf1, hsample⟩ := framerView_eq_iff.1 h
  cases op with
  | append0 => simp [framerView, hbuf1, hsample]
  | append1 => simp [framerView, hbuf0, hsample]
  | term => simp [framerView, hbuf0, hbuf1]
  | drop => exact h

/-- An event is left out only if the framer does not see it. -/
theorem perform_of_withoutTick_none {w : EventWord} {s t : State} (hw : withoutTick w = none)
    (h : perform w s = .next t) : framerView t = framerView s ∧ publishes w s = false := by
  have hk : wordKind w = kindTick := by
    by_contra hne
    by_cases hrxt : wordKind w = kindRxt <;> simp_all [withoutTick]
  obtain rfl := Host.Outcome.next.inj ((perform_of_tick s hk).symm.trans h)
  exact ⟨rfl, by simp [publishes, hasByte, hk, kindTick, kindRx, kindRxt]⟩

/-- An event without its TICK part does the same to the framer. -/
theorem perform_of_withoutTick_some {w w' : EventWord} {s s' t : State} (hw : withoutTick w = some w')
    (hv : framerView s' = framerView s) (h : perform w s = .next t) :
    ∃ t', perform w' s' = .next t' ∧ framerView t' = framerView t ∧
      publishes w' s' = publishes w s := by
  obtain ⟨hcount, -⟩ := framerView_eq_iff.1 hv
  have hsame : publishes w s' = publishes w s := by rw [publishes, publishes, hcount]
  rcases perform_cases h with ⟨hk, rfl⟩ | ⟨hk, -⟩ | ⟨hk, op, hs, rfl⟩ | ⟨hk, op, hs, rfl⟩
  · obtain rfl : w = w' := by simpa [withoutTick, hk, kindReset, kindTick, kindRxt] using hw
    exact ⟨_, perform_of_reset s' hk, rfl, hsame⟩
  · simp [withoutTick, hk] at hw
  · obtain rfl : w = w' := by simpa [withoutTick, hk, kindRx, kindTick, kindRxt] using hw
    exact ⟨_, perform_of_rx hk (hcount ▸ hs), framerView_performRx op _ hv, hsame⟩
  · obtain rfl : mkWord kindRx (wordData w) = w' := by
      simpa [withoutTick, hk, kindTick, kindRxt, eventWord] using hw
    refine ⟨performRx op (wordData w) s', ?_, framerView_performRx op _ hv, ?_⟩
    · rw [perform_rx, hcount, hs]
    · rw [← hsame]
      simp [publishes, hasByte, hk]

/-- The two runs side by side: their states look alike to the framer all along, and they publish alike. -/
theorem runWords_withoutTicks {ws : List EventWord} {s s' t : State} (hv : framerView s' = framerView s)
    (h : runWords ws s = .next t) :
    ∃ t', RunPublishes (withoutTicks ws) s' t' (published ws s) ∧ framerView t' = framerView t := by
  induction ws generalizing s s' with
  | nil =>
    obtain rfl := Host.Outcome.next.inj h
    exact ⟨s', .nil s', hv⟩
  | cons w ws ih =>
    obtain ⟨m, hm, hrun⟩ := runWords_cons_next h
    rw [published_cons hm]
    cases hw : withoutTick w with
    | none =>
      obtain ⟨hmv, hpub⟩ := perform_of_withoutTick_none hw hm
      have hws : withoutTicks (w :: ws) = withoutTicks ws := List.filterMap_cons_none hw
      rw [hws, hpub]
      exact ih (hv.trans hmv.symm) hrun
    | some w' =>
      obtain ⟨m', hm', hmv, hpub⟩ := perform_of_withoutTick_some hw hv hm
      obtain ⟨-, -, -, hsample⟩ := framerView_eq_iff.1 hmv
      have hws : withoutTicks (w :: ws) = w' :: withoutTicks ws := List.filterMap_cons_some hw
      obtain ⟨t', hrun', ht⟩ := ih hmv hrun
      rw [hws, ← hpub, ← hsample]
      exact ⟨t', .cons hm' hrun', ht⟩

/-- Settles O43: both runs begin in one state. -/
theorem ticksDoNotAffectTheFramer : Obligations.TicksDoNotAffectTheFramer := by
  unfold Obligations.TicksDoNotAffectTheFramer
  intro ws s t h
  obtain ⟨t', ⟨hrun, hpub⟩, hv⟩ := runWords_withoutTicks (s' := s) rfl h
  exact ⟨t', hrun, hv, hpub⟩

end Sys2Proof.Machine
end

section
/-! PROOFS. A byte and a tick at the same instant (R124), the torn read (R45), and the access matrix (R29). -/

namespace Sys2Proof.Machine

open Sys2Proof.Laws

/-! The torn read. -/

theorem selectRx_term_iff {d : Byte} {c : Count} :
    selectRx d c = some .term ↔ d = 0#8 ∧ c = 2#2 := by
  constructor
  · intro h
    obtain ⟨hc, hd⟩ : c = 2#2 ∧ d = 0#8 := by simpa using selectRx_some h
    exact ⟨hd, hc⟩
  · rintro ⟨rfl, rfl⟩
    exact selectRx_full_sentinel

/-- When the tick of an RXT is torn, in terms of its byte and the state. -/
theorem tears_iff_of_select {d : Byte} {s : State} {op : RxOp} (hs : selectRx d s.count = some op) :
    tears op s = true ↔ d = 0#8 ∧ s.count = 2#2 ∧ s.params.sampleUpdateAtomic = false := by
  have hop : op = .term ↔ d = 0#8 ∧ s.count = 2#2 := by
    rw [← selectRx_term_iff, hs, Option.some.injEq]
  rw [tears_iff, hop, and_assoc]

theorem countDraw_whole {op : RxOp} {s : State} (h : tears op s = false) : countDraw op s = s := by
  simp [countDraw, h]

/-- Samples are equal exactly when their bytes are. -/
theorem sample_eq_iff {u v : Sample} : u = v ↔ lowByte u = lowByte v ∧ highByte u = highByte v := by
  refine ⟨fun h => h ▸ ⟨rfl, rfl⟩, fun ⟨hlow, hhigh⟩ => ?_⟩
  rw [← assemble_bytes u, hlow, hhigh, assemble_bytes]

/-- The mixtures of two samples are the values with each byte from one of them (R45). -/
theorem exists_tornMix_iff {old new c : Sample} :
    (∃ l h, tornMix l h old new = c) ↔
      (lowByte c = lowByte old ∨ lowByte c = lowByte new) ∧
        (highByte c = highByte old ∨ highByte c = highByte new) := by
  have hbytes : ∀ l h, tornMix l h old new = c ↔
      lowByte c = (if l then lowByte new else lowByte old) ∧
        highByte c = (if h then highByte new else highByte old) := by
    intro l h
    obtain ⟨hlow, hhigh⟩ := tornMix_bytes l h old new
    rw [eq_comm, sample_eq_iff, hlow, hhigh]
  simp only [hbytes, exists_and_left, exists_and_right]
  simp

/-- Each byte of a torn read is old or new. -/
theorem coincidentCode_bytes {op : RxOp} {s : State} (h : tears op s = true) :
    (lowByte (coincidentCode op s) = lowByte s.sample ∨ lowByte (coincidentCode op s) = s.buf0) ∧
      (highByte (coincidentCode op s) = highByte s.sample ∨ highByte (coincidentCode op s) = s.buf1) := by
  simpa using exists_tornMix_iff.1 ⟨_, _, (coincidentCode_torn h).symm⟩

/-! RXT. -/

/-- The key pattern of row 3 of R64. -/
theorem decodeKey_pattern_11 {c : Count} (d : Byte) (hc : c ≠ 3#2) :
    decodeKey (0b11#2 ++ c ++ d) = .ok (.rxt d) :=
  calc decodeKey (0b11#2 ++ c ++ d) = decodeKey (mkKey kindRxt c d) := rfl
    _ = .ok (.rxt d) := (decodeKey_rxt c d).trans (if_neg hc)

theorem perform_rx_of_select {d : Byte} {s : State} {op : RxOp} (hs : selectRx d s.count = some op) :
    perform (eventWord (.rx d)) s = .next (performRx op d s) := by
  rw [eventWord, perform_rx, hs]

/-- With an atomic update RXT is TICK and then RX, at the reserved `COUNT` too (R124). -/
theorem exec_rxt_of_atomic {d : Byte} {s : State} (hatomic : s.params.sampleUpdateAtomic = true) :
    exec (.rxt d) s = runWords [eventWord .tick, eventWord (.rx d)] s := by
  rw [runWords_cons_of_next (w := eventWord .tick) (perform_tick 0 s)]
  cases hs : selectRx d s.count with
  | none =>
    have hc : s.count = 3#2 := selectRx_none.1 hs
    rw [exec_rxt_reserved d hc,
      runWords_cons_of_fault (perform_rx_reserved (s := dacWrite s.sample s) d hc)]
  | some op =>
    have hwhole : tears op s = false := by simp [tears, hatomic]
    rw [exec_rxt_of_select hs, countDraw_whole hwhole, coincidentCode_whole hwhole,
      runWords_cons_of_next (perform_rx_of_select (s := dacWrite s.sample s) hs), runWords_nil]

/-- Settles O36: the code written is the one the tick reads, torn exactly where the operation selected is
RX_TERM and the update is not atomic. -/
theorem rxtWritesTheOldOrTornSampleThenTakesTheByte :
    Obligations.RxtWritesTheOldOrTornSampleThenTakesTheByte := by
  unfold Obligations.RxtWritesTheOldOrTornSampleThenTakesTheByte
  intro d s
  refine ⟨fun c hc => decodeKey_pattern_11 d hc, exec_rxt_reserved d, fun hc => ?_, exec_rxt_of_atomic⟩
  obtain ⟨op, hs⟩ := selectRx_of_legal d hc
  have htears := tears_iff_of_select hs
  refine ⟨coincidentCode op s, (countDraw op s).draws, _, exec_rxt_of_select hs,
    perform_rx_of_select (s := dacWrite (coincidentCode op s) (countDraw op s)) hs,
    fun htorn => coincidentCode_bytes (htears.2 htorn), fun hwhole => ?_⟩
  exact coincidentCode_whole (Bool.eq_false_iff.2 fun h => hwhole (htears.1 h))

/-- Settles O37: the sentinel at a full buffer selects RX_TERM, which publishes whatever the tick read. -/
theorem tornReadMixesOldAndNewBytes : Obligations.TornReadMixesOldAndNewBytes := by
  unfold Obligations.TornReadMixesOldAndNewBytes
  refine ⟨fun s hc => ?_, fun _ _ _ => exists_tornMix_iff⟩
  have hs : selectRx 0#8 s.count = some .term := selectRx_term_iff.2 ⟨rfl, hc⟩
  refine ⟨_, exec_rxt_of_select hs, rfl, rfl, rfl, fun hatomic => ?_, fun hatomic => ?_⟩
  · have hwhole : tears .term s = false := by simp [tears, hatomic]
    exact ⟨coincidentCode_whole hwhole, by simp [hwhole]⟩
  · have htorn : tears .term s = true := tears_iff.2 ⟨rfl, hatomic⟩
    obtain ⟨hlow, hhigh⟩ := coincidentCode_bytes htorn
    exact ⟨by simpa using hlow, by simpa using hhigh, by simp [htorn]⟩

/-! The access matrix. -/

/-- What the framer operation that a byte and `COUNT` select leaves of the framer's elements (R29). -/
theorem performRx_selected_frame {d : Byte} {s : State} {op : RxOp} (hs : selectRx d s.count = some op) :
    (s.count ≠ 0#2 → (performRx op d s).buf0 = s.buf0) ∧
      (s.count ≠ 1#2 → (performRx op d s).buf1 = s.buf1) ∧
      (s.count = 2#2 ∧ d ≠ 0#8 → (performRx op d s).count = s.count) ∧
      (¬ (s.count = 2#2 ∧ d = 0#8) → (performRx op d s).sample = s.sample) := by
  rcases selectRx_some hs with ⟨rfl, hc⟩ | ⟨rfl, hc⟩ | ⟨rfl, hc, hd⟩ | ⟨rfl, hc, hd⟩
  · simp [hc]
  · simp [hc]
  · simp [hc, hd]
  · simp

/-- The draw counter after RXT: the RX part leaves it, and only a torn read moves it (log entry 7). -/
theorem exec_rxt_draws {d : Byte} {s t : State} (h : exec (.rxt d) s = .next t)
    (hwhole : ¬ (s.count = 2#2 ∧ d = 0#8 ∧ s.params.sampleUpdateAtomic = false)) : t.draws = s.draws := by
  obtain ⟨op, hs, rfl⟩ := exec_rxt_next h
  have htears : tears op s = false := by
    rw [Bool.eq_false_iff, ne_eq, tears_iff_of_select hs]
    exact fun ⟨hd, hc, ha⟩ => hwhole ⟨hc, hd, ha⟩
  obtain ⟨-, -, -, hdraws, -⟩ := performRx_frame op d (dacWrite (coincidentCode op s) (countDraw op s))
  rw [hdraws, dacWrite_draws, countDraw_whole htears]

/-- Settles O45: the state after each operation written out; for RXT, the rows of TICK and of the
operation it selects. -/
theorem operationsWriteOnlyTheirElements : Obligations.OperationsWriteOnlyTheirElements := by
  unfold Obligations.OperationsWriteOnlyTheirElements
  intro i s t h
  cases i with
  | rxt d =>
    have hdraws := exec_rxt_draws h
    obtain ⟨op, hs, rfl⟩ := exec_rxt_next h
    obtain ⟨-, hlog, hscript, -, hparams⟩ :=
      performRx_frame op d (dacWrite (coincidentCode op s) (countDraw op s))
    obtain ⟨hbuf0, hbuf1, hcount, hsample⟩ :=
      performRx_selected_frame (s := dacWrite (coincidentCode op s) (countDraw op s)) hs
    refine ⟨hscript, hparams, fun hor => hdraws ?_, hbuf0, hbuf1, hcount, hsample, hdraws, _, hlog⟩
    rintro ⟨-, -, ha⟩
    rcases hor with hne | hatomic
    · exact hne d rfl
    · simp [ha] at hatomic
  | reset => cases h; exact ⟨rfl, rfl, fun _ => rfl, rfl⟩
  | tick => cases h; exact ⟨rfl, rfl, fun _ => rfl, rfl, rfl, rfl, rfl⟩
  | rxTerm => cases h; exact ⟨rfl, rfl, fun _ => rfl, rfl, rfl, rfl, rfl⟩
  | rxAppend0 d => cases h; exact ⟨rfl, rfl, fun _ => rfl, rfl, rfl, rfl, rfl⟩
  | rxAppend1 d => cases h; exact ⟨rfl, rfl, fun _ => rfl, rfl, rfl, rfl, rfl⟩
  | rxDrop d => cases h; exact ⟨rfl, rfl, fun _ => rfl, rfl, rfl, rfl, rfl, rfl, rfl⟩

end Sys2Proof.Machine
end

section
/-! PROOFS. Reset (R150), the values DAC codes stand for (R66, R105), the ports (R125) and the timing
table (R159). -/

namespace Sys2Proof.Machine

open Sys2Proof.Laws

/-! Reset. -/

/-- RESET goes on with the reset values written (R150). -/
theorem exec_reset (s : State) : exec .reset s = .next (resetBlock s) := rfl

theorem resetBlock_resetBlock (s : State) : resetBlock (resetBlock s) = resetBlock s := rfl

theorem runWords_reset_cons (ws : List EventWord) (s : State) :
    runWords (eventWord .reset :: ws) s = runWords ws (resetBlock s) :=
  runWords_cons_of_next (perform_reset 0 s)

/-- Settles O38: the state after RESET is `resetBlock s`, which a second RESET leaves; its buffer is empty. -/
theorem resetWritesTheResetValues : Obligations.ResetWritesTheResetValues := by
  unfold Obligations.ResetWritesTheResetValues
  intro s
  refine ⟨exec_reset s, ?_, fun d => ⟨appendFirst d (resetBlock s), ?_, rfl, rfl⟩⟩
  · rw [runWords_reset_cons, runWords_reset_cons, runWords_reset_cons, resetBlock_resetBlock]
  · rw [runWords_reset_cons, runWords_cons_of_next (perform_rx_empty d (resetBlock_count s)), runWords_nil]

/-- Settles O39. -/
theorem startStateHoldsTheResetValues : Obligations.StartStateHoldsTheResetValues := by
  unfold Obligations.StartStateHoldsTheResetValues
  exact ⟨rfl, rfl, rfl, rfl, rfl, rfl, rfl, rfl, rfl, rfl⟩

/-! DAC codes. -/

theorem dacValue_injective {c c' : Sample} (h : dacValue c = dacValue c') : c = c' := by
  rw [dacValue_eq, dacValue_eq, div_left_inj' (by norm_num), Int.cast_inj] at h
  exact BitVec.eq_of_toInt_eq h

/-- Settles O34: a multiple m of 2^-11 in the range has m in the range of 16-bit words, and its word is
the code. -/
theorem codesAreTheQ4Point11Values : Obligations.CodesAreTheQ4Point11Values := by
  unfold Obligations.CodesAreTheQ4Point11Values
  refine ⟨fun q => ⟨?_, ?_⟩, fun _ _ => dacValue_injective⟩
  · rintro ⟨c, rfl⟩
    obtain ⟨hlow, hhigh⟩ := dacValue_mem_range c
    refine ⟨hlow, hhigh.trans_eq (by norm_num), c.toInt, ?_⟩
    rw [dacValue_eq, mul_one_div]
  · rintro ⟨hlow, hhigh, m, rfl⟩
    have hm : (-32768 : Rat) ≤ m ∧ (m : Rat) ≤ 32767 := ⟨by linarith, by linarith⟩
    refine ⟨sampleOfInt m, ?_⟩
    rw [dacValue_sampleOfInt (by exact_mod_cast hm.1) (by exact_mod_cast hm.2), mul_one_div]

/-- Settles O35: the significand is the signed code, of 16 bits, and the exponent is -11. -/
theorem writtenValuesAreExactInBinary32 : Obligations.WrittenValuesAreExactInBinary32 := by
  unfold Obligations.WrittenValuesAreExactInBinary32
  intro c
  have hlow : -32768 ≤ c.toInt := BitVec.le_toInt c
  have hhigh : c.toInt < 32768 := BitVec.toInt_lt
  refine ⟨c.toInt, -11, by omega, by omega, by omega, ?_⟩
  rw [dacValue_eq, div_eq_mul_inv]
  norm_num

/-! Ports. -/

/-- Settles O47: the event of the edge is RESET, or RXT, and its word performs that operation. -/
theorem resetDominatesCoincidentInputs : Obligations.ResetDominatesCoincidentInputs := by
  unfold Obligations.ResetDominatesCoincidentInputs
  intro p s
  constructor
  · intro hrst
    have hword : arbitrate p = some (eventWord .reset) := by simp [arbitrate, hrst]
    rw [clockEdge, hword]
    exact perform_reset 0 s
  · intro hrst hvalid htick
    have hword : arbitrate p = some (eventWord (.rxt p.rxData)) := by
      simp [arbitrate, hrst, hvalid, htick]
    rw [clockEdge, hword]
    exact perform_rxt p.rxData s

/-! Timing at the default parameters. -/

theorem tickPeriod_default : tickPeriod .default = 1 / 360 := rfl

theorem bitTime_default : bitTime .default = 1 / 115200 := by simp [bitTime, Params.default]

/-- A character of 8N1: a start bit, eight data bits and a stop bit. -/
theorem characterBits_eightN1 : characterBits .eightN1 = 10 := rfl

theorem byteTime_default : byteTime .default = 10 / 115200 := by
  have hbits : characterBits Params.default.uartFraming = 10 := characterBits_eightN1
  rw [byteTime, hbits, bitTime_default]
  norm_num

theorem frameTime_default : frameTime .default = 30 / 115200 := by
  rw [frameTime, byteTime_default]
  norm_num [Config.frameDataBytes]

/-- Settles O48. -/
theorem defaultTimingIsTheTables : Obligations.DefaultTimingIsTheTables := by
  unfold Obligations.DefaultTimingIsTheTables
  refine ⟨tickPeriod_default, bitTime_default, byteTime_default, frameTime_default, ?_, ?_⟩
  · rw [maxFramesPerSecond, frameTime_default]
    norm_num
  · rw [maxFramesPerTick, tickPeriod_default, frameTime_default]
    norm_num

end Sys2Proof.Machine
end
